-- ==== Sys2Proof/Word.lean ====
section
/-! DEFINITION. The word types of the CORE (00_scope.md R11). -/

namespace Sys2Proof

/-- A byte, 8 bits (R11). -/
abbrev Byte := BitVec 8

/-- A 16-bit field: block index and length, timeouts, delays (R11). -/
abbrev Half := BitVec 16

/-- A 32-bit register of the register map, a 32-bit operand (10_state.md R40; 30_encoding.md R121). -/
abbrev Word := BitVec 32

/-- A 17-bit block ordinal or block count (10_state.md R37). -/
abbrev BlockOrdinal := BitVec 17

/-- A byte string (00_scope.md R12): frames, payloads, buffers, the opaque transport token. -/
abbrev Bytes := List Byte

end Sys2Proof
end

