-- ==== Sys2Proof/Syntax.lean ====
section
/-! DEFINITION. The instructions: one constructor per row of spec/opcode_table.json (30_encoding.md R122; 44_wire_commands.md
R310). -/

namespace Sys2Proof

/-- The two encodings of 30_encoding.md. A request carries the one it is written in (log 1). -/
inductive Port where
  /-- The command port of the CORE: a command word and its operands (R121). -/
  | command
  /-- The HOST's wire-command wrappers: a wire opcode and the wrapper's operands (44_wire_commands.md R311). -/
  | wire
  deriving DecidableEq, Repr

/-- The commands of the CORE and the wire-command wrappers. A wrapper's last operand is its timeout `t` (R311); operands that
a wrapper checks against a range are wide enough to lie outside it (log 16). -/
inductive Instr where
  -- CORE_CMD rows (30_encoding.md R122)
  | nop
  | encode (opc : Byte) (params : Bytes)
  | decode (quiet : Bool) (raw : Bytes)
  | transceive (ignoreReply : Bool) (opc : Byte) (params : Bytes) (timeout : Half)
  | sendBuffer (extTimeout : Bool) (bsize : Half) (data : Bytes)
  | sessionStart (tparams : Bytes)
  | sessionEnd
  | cfgWrite (addr : Byte) (value : Word)
  | cfgRead (addr : Byte)
  | statusRead
  -- WIRE_OPCODE rows (44_wire_commands.md R310)
  | ping (t : Half)
  | getVersions (t : Half)
  | getBatteryPower (t : Half)
  | selectProgram (slot : Word) (t : Half)
  | stopAllTasks (t : Half)
  | deleteAllTasks (t : Half)
  | deleteAllSubs (t : Half)
  | beginTaskDownload (task : Byte) (size : Word) (t : Half)
  | continueDownload (idx : Half) (data : Bytes) (t : Half)
  | goIntoBootMode (t : Half)
  | beginFirmwareDownload (addr : Half) (cs : Half) (t : Half)
  | unlockFirmware (t : Half)
  | remote (msg : Half) (t : Half)
  | playTone (freq : Word) (dur : Word) (t : Half)
  | playSystemSound (sound : Word) (t : Half)
  deriving DecidableEq, Repr

end Sys2Proof
end

