-- ==== Sys2Proof/WellFormed.lean ====
section
/-! DEFINITION. Which instructions have an encoding: a byte-string operand is written with a 32-bit length (30_encoding.md
R121), and every other operand has its field's width by its type. -/

namespace Sys2Proof

/-- The length of a byte-string operand fits its 32-bit length field (R121). -/
def fitsLength (bs : Bytes) : Bool := decide (bs.length < 2 ^ 32)

/-- The instruction has an encoding (30_encoding.md R121, R122). -/
def Instr.wellFormed : Instr → Bool
  | .nop => true
  | .encode _ params => fitsLength params
  | .decode _ raw => fitsLength raw
  | .transceive _ _ params _ => fitsLength params
  | .sendBuffer _ _ data => fitsLength data
  | .sessionStart tparams => fitsLength tparams
  | .sessionEnd => true
  | .cfgWrite _ _ => true
  | .cfgRead _ => true
  | .statusRead => true
  | .ping _ => true
  | .getVersions _ => true
  | .getBatteryPower _ => true
  | .selectProgram _ _ => true
  | .stopAllTasks _ => true
  | .deleteAllTasks _ => true
  | .deleteAllSubs _ => true
  | .beginTaskDownload _ _ _ => true
  | .continueDownload _ data _ => fitsLength data
  | .goIntoBootMode _ => true
  | .beginFirmwareDownload _ _ _ => true
  | .unlockFirmware _ => true
  | .remote _ _ => true
  | .playTone _ _ _ => true
  | .playSystemSound _ _ => true

end Sys2Proof
end

