-- ==== Sys2Proof/Decode.lean ====
section
/-! DEFINITION. The decoder of both encodings of 30_encoding.md and, after it, the encoder. Total on any bytes: a command word
that R123 calls illegal is answered as illegal (its operands are not read, 43_control.md R287), a wire opcode outside the closed
table as no wrapper, and a byte string that ends inside its operands as incomplete. -/

namespace Sys2Proof

/-! ## Bytes of multi-byte values, low byte first (30_encoding.md R121; 20_memory.md R94) -/

/-- `lo(v)` of a 16-bit v (00_scope.md R12). -/
def lo (v : Half) : Byte := v.extractLsb' 0 8
/-- `hi(v)` of a 16-bit v (00_scope.md R12). -/
def hi (v : Half) : Byte := v.extractLsb' 8 8

/-- A 16-bit operand: 2 bytes, low byte first (R121). -/
def halfBytes (v : Half) : Bytes := [lo v, hi v]
/-- A 32-bit operand: 4 bytes, low byte first (R121). -/
def wordBytes (v : Word) : Bytes :=
  [v.extractLsb' 0 8, v.extractLsb' 8 8, v.extractLsb' 16 8, v.extractLsb' 24 8]
/-- A byte-string operand: its 32-bit length, low byte first, then its bytes (R121). -/
def stringBytes (bs : Bytes) : Bytes := wordBytes (BitVec.ofNat 32 bs.length) ++ bs

/-- Reads an 8-bit operand. -/
def takeByte : Bytes → Option (Byte × Bytes)
  | b :: rest => some (b, rest)
  | [] => none
/-- Reads a 16-bit operand, low byte first. -/
def takeHalf : Bytes → Option (Half × Bytes)
  | b0 :: b1 :: rest => some ((b1 ++ b0 : BitVec (8 + 8)), rest)
  | _ => none
/-- Reads a 32-bit operand, low byte first. -/
def takeWord : Bytes → Option (Word × Bytes)
  | b0 :: b1 :: b2 :: b3 :: rest => some ((b3 ++ b2 ++ b1 ++ b0 : BitVec (8 + 8 + 8 + 8)), rest)
  | _ => none
/-- Reads a byte-string operand: a 32-bit length L, then L bytes. -/
def takeString (bs : Bytes) : Option (Bytes × Bytes) :=
  match takeWord bs with
  | some (len, rest) =>
    if len.toNat ≤ rest.length then some (rest.take len.toNat, rest.drop len.toNat) else none
  | none => none

/-! ## The decoder -/

/-- What the decoder reads from a byte string. -/
inductive Decoded where
  /-- An instruction, and the bytes after its operands. -/
  | instr (i : Instr) (rest : Bytes)
  /-- An illegal command word (30_encoding.md R123). -/
  | illegal
  /-- A first byte that is no opcode of the closed table (44_wire_commands.md R310). -/
  | unknown
  /-- The bytes end before the operands do. -/
  | incomplete
  deriving DecidableEq, Repr

/-- An instruction whose operands were read, or the end of the bytes inside them. -/
def Decoded.ofOperands : Option (Instr × Bytes) → Decoded
  | some (i, rest) => .instr i rest
  | none => .incomplete

/-- Bit 4 of the command word, the flag F (R121). -/
def cmdFlag (w : Byte) : Bool := w.getLsbD 4

/-- The commands whose F is a flag rather than reserved: DECODE, TRANSCEIVE, SEND_BUFFER (R122). -/
def flaggedCode (code : Nat) : Bool := code == 0x2 || code == 0x3 || code == 0x4

/-- The command word is illegal (30_encoding.md R123): a reserved bit set, a reserved code, or F = 1 where F is reserved. -/
def illegalWord (w : Byte) : Bool :=
  w.extractLsb' 5 3 != 0#3 || decide (0xA ≤ (w.extractLsb' 0 4).toNat)
    || (cmdFlag w && !flaggedCode (w.extractLsb' 0 4).toNat)

/-- The operands of the command with code `code` and flag `f` (30_encoding.md R122). -/
def commandOperands (code : Nat) (f : Bool) (bs : Bytes) : Option (Instr × Bytes) :=
  match code with
  | 0x0 => some (.nop, bs)
  | 0x1 => do
    let (opc, bs) ← takeByte bs
    let (params, bs) ← takeString bs
    some (.encode opc params, bs)
  | 0x2 => do
    let (raw, bs) ← takeString bs
    some (.decode f raw, bs)
  | 0x3 => do
    let (opc, bs) ← takeByte bs
    let (params, bs) ← takeString bs
    let (timeout, bs) ← takeHalf bs
    some (.transceive f opc params timeout, bs)
  | 0x4 => do
    let (bsize, bs) ← takeHalf bs
    let (data, bs) ← takeString bs
    some (.sendBuffer f bsize data, bs)
  | 0x5 => do
    let (tparams, bs) ← takeString bs
    some (.sessionStart tparams, bs)
  | 0x6 => some (.sessionEnd, bs)
  | 0x7 => do
    let (addr, bs) ← takeByte bs
    let (value, bs) ← takeWord bs
    some (.cfgWrite addr value, bs)
  | 0x8 => do
    let (addr, bs) ← takeByte bs
    some (.cfgRead addr, bs)
  | 0x9 => some (.statusRead, bs)
  | _ => none

/-- A command word and its operands (30_encoding.md R121 to R123). -/
def decodeCommand : Bytes → Decoded
  | [] => .incomplete
  | w :: bs =>
    if illegalWord w then .illegal
    else .ofOperands (commandOperands (w.extractLsb' 0 4).toNat (cmdFlag w) bs)

/-- The identity of a wire opcode: bits 7:4 and 2:0, the byte under the mask 0xF7 (30_encoding.md R115). Bit 3 carries the
toggle bit, which the encoder inserts, so it is no operand (log 5). -/
def wireIdentity (op : Byte) : Byte := op &&& 0xF7

/-- The operands of the wrapper of the wire opcode `op`, its timeout last (44_wire_commands.md R311 to R326; the layout is the
model's, log 2). -/
def wireOperands (op : Nat) (bs : Bytes) : Option (Option (Instr × Bytes)) :=
  match op with
  | 0x10 => some (timeoutOnly .ping bs)
  | 0x15 => some (timeoutOnly .getVersions bs)
  | 0x30 => some (timeoutOnly .getBatteryPower bs)
  | 0x91 => some do
    let (slot, bs) ← takeWord bs
    let (t, bs) ← takeHalf bs
    some (.selectProgram slot t, bs)
  | 0x50 => some (timeoutOnly .stopAllTasks bs)
  | 0x40 => some (timeoutOnly .deleteAllTasks bs)
  | 0x70 => some (timeoutOnly .deleteAllSubs bs)
  | 0x25 => some do
    let (task, bs) ← takeByte bs
    let (size, bs) ← takeWord bs
    let (t, bs) ← takeHalf bs
    some (.beginTaskDownload task size t, bs)
  | 0x45 => some do
    let (idx, bs) ← takeHalf bs
    let (data, bs) ← takeString bs
    let (t, bs) ← takeHalf bs
    some (.continueDownload idx data t, bs)
  | 0x65 => some (timeoutOnly .goIntoBootMode bs)
  | 0x75 => some do
    let (addr, bs) ← takeHalf bs
    let (cs, bs) ← takeHalf bs
    let (t, bs) ← takeHalf bs
    some (.beginFirmwareDownload addr cs t, bs)
  | 0xA5 => some (timeoutOnly .unlockFirmware bs)
  | 0xD2 => some do
    let (msg, bs) ← takeHalf bs
    let (t, bs) ← takeHalf bs
    some (.remote msg t, bs)
  | 0x23 => some do
    let (freq, bs) ← takeWord bs
    let (dur, bs) ← takeWord bs
    let (t, bs) ← takeHalf bs
    some (.playTone freq dur t, bs)
  | 0x51 => some do
    let (sound, bs) ← takeWord bs
    let (t, bs) ← takeHalf bs
    some (.playSystemSound sound t, bs)
  | _ => none
where
  /-- A wrapper with no operand but its timeout. -/
  timeoutOnly (ctor : Half → Instr) (bs : Bytes) : Option (Instr × Bytes) := do
    let (t, bs) ← takeHalf bs
    some (ctor t, bs)

/-- A wire opcode and its wrapper's operands (44_wire_commands.md R310; log 1, log 2). -/
def decodeWire : Bytes → Decoded
  | [] => .incomplete
  | op :: bs =>
    match wireOperands (wireIdentity op).toNat bs with
    | some r => .ofOperands r
    | none => .unknown

/-- The decoder of a request, by the encoding it is written in (30_encoding.md). -/
def decode : Port → Bytes → Decoded
  | .command, bs => decodeCommand bs
  | .wire, bs => decodeWire bs

/-! ## The encoder -/

/-- The command word: CODE in bits 3:0, F in bit 4, bits 7:5 zero (R121). -/
def commandWord (code : BitVec 4) (f : Bool) : Byte := (0#3 ++ BitVec.ofBool f ++ code : BitVec (3 + 1 + 4))

/-- The encoding an instruction is written in: `CORE_CMD` or `WIRE_OPCODE` (spec/opcode_table.json). -/
def Instr.port : Instr → Port
  | .nop | .encode _ _ | .decode _ _ | .transceive _ _ _ _ | .sendBuffer _ _ _ | .sessionStart _ | .sessionEnd
  | .cfgWrite _ _ | .cfgRead _ | .statusRead => .command
  | .ping _ | .getVersions _ | .getBatteryPower _ | .selectProgram _ _ | .stopAllTasks _ | .deleteAllTasks _
  | .deleteAllSubs _ | .beginTaskDownload _ _ _ | .continueDownload _ _ _ | .goIntoBootMode _
  | .beginFirmwareDownload _ _ _ | .unlockFirmware _ | .remote _ _ | .playTone _ _ _ | .playSystemSound _ _ => .wire

/-- The bytes of a well-formed instruction (30_encoding.md R121, R122; for a wrapper log 2). -/
def encode : Instr → Bytes
  | .nop => [commandWord 0x0 false]
  | .encode opc params => commandWord 0x1 false :: opc :: stringBytes params
  | .decode quiet raw => commandWord 0x2 quiet :: stringBytes raw
  | .transceive ign opc params timeout => commandWord 0x3 ign :: opc :: (stringBytes params ++ halfBytes timeout)
  | .sendBuffer ext bsize data => commandWord 0x4 ext :: (halfBytes bsize ++ stringBytes data)
  | .sessionStart tparams => commandWord 0x5 false :: stringBytes tparams
  | .sessionEnd => [commandWord 0x6 false]
  | .cfgWrite addr value => commandWord 0x7 false :: addr :: wordBytes value
  | .cfgRead addr => [commandWord 0x8 false, addr]
  | .statusRead => [commandWord 0x9 false]
  | .ping t => 0x10 :: halfBytes t
  | .getVersions t => 0x15 :: halfBytes t
  | .getBatteryPower t => 0x30 :: halfBytes t
  | .selectProgram slot t => 0x91 :: (wordBytes slot ++ halfBytes t)
  | .stopAllTasks t => 0x50 :: halfBytes t
  | .deleteAllTasks t => 0x40 :: halfBytes t
  | .deleteAllSubs t => 0x70 :: halfBytes t
  | .beginTaskDownload task size t => 0x25 :: task :: (wordBytes size ++ halfBytes t)
  | .continueDownload idx data t => 0x45 :: (halfBytes idx ++ stringBytes data ++ halfBytes t)
  | .goIntoBootMode t => 0x65 :: halfBytes t
  | .beginFirmwareDownload addr cs t => 0x75 :: (halfBytes addr ++ halfBytes cs ++ halfBytes t)
  | .unlockFirmware t => 0xA5 :: halfBytes t
  | .remote msg t => 0xD2 :: (halfBytes msg ++ halfBytes t)
  | .playTone freq dur t => 0x23 :: (wordBytes freq ++ wordBytes dur ++ halfBytes t)
  | .playSystemSound sound t => 0x51 :: (wordBytes sound ++ halfBytes t)

/-! ## The host's table words -/

/-- The bytes of a table word: bit 0 of `w` is the least significant bit of the first byte; operand bytes that the table gives
no bits are zero, more of them than the longest instruction with empty strings has. -/
def tableBytes (nbits w : Nat) : Bytes := tableBytesAux ((nbits + 7) / 8) w ++ List.replicate 16 0
where
  /-- The first `n` bytes of `w`, low byte first. -/
  tableBytesAux : Nat → Nat → Bytes
    | 0, _ => []
    | n + 1, w => BitVec.ofNat 8 w :: tableBytesAux n (w / 256)

/-- The encoding a table word belongs to, what it decodes to, and its bytes without the zeros after it. No legal command word
is a wire opcode of the closed table, so a byte string that is no legal command is read as a wire opcode (log 1). -/
def tableRequest (nbits w : Nat) : Option (Port × Instr × Bytes) :=
  let bs := tableBytes nbits w
  match decode .command bs with
  | .instr i rest => some (.command, i, bs.take (bs.length - rest.length))
  | _ =>
    match decode .wire bs with
    | .instr i rest => some (.wire, i, bs.take (bs.length - rest.length))
    | _ => none

/-- The instruction the decoder reads from a table word (none where it refuses). -/
def decodeTableWord (nbits w : Nat) : Option Instr := (tableRequest nbits w).map fun r => r.2.1

end Sys2Proof
end

