-- ==== Sys2Proof/Config.lean ====
section
/-! DEFINITION. What an implementation of the CORE fixes (00_scope.md R10) and the free values: the draws of the LINK
(00_scope.md R13), the elapsed time (60_exceptions.md R396) and the optional diagnostic event (60_exceptions.md R395). -/

namespace Sys2Proof

/-- One parameter byte of a wire command (44_wire_commands.md R310): a fixed byte, or a byte of one of the wrapper's operands,
which are numbered from 0 and 16 bits wide. -/
inductive ParamByte where
  | fixed (b : Byte)
  /-- `lo` of the operand (00_scope.md R12); of an operand that is one byte wide, the byte itself. -/
  | low (operand : Nat)
  /-- `hi` of the operand (00_scope.md R12). -/
  | high (operand : Nat)
  deriving DecidableEq, Repr

/-- A row of the opcode table: its opcode, with bit 3 clear, and its parameter layout (44_wire_commands.md R310). -/
structure WireCommand where
  opcode : Byte
  params : List ParamByte
  deriving DecidableEq, Repr

/-- The opcode table of 44_wire_commands.md R310, an argument of the model (its introduction; 92_eei_decisions.md D37; log 8).
Three rows stand elsewhere: Ping's opcode is the source's (`Config.opcPing`), and the opcodes of ContinueDownload and Remote
are `OPC_CONT` and `OPC_REMOTE` of `Build`. -/
structure WireTable where
  getVersions : WireCommand
  getBatteryPower : WireCommand
  selectProgram : WireCommand
  stopAllTasks : WireCommand
  deleteAllTasks : WireCommand
  deleteAllSubs : WireCommand
  beginTaskDownload : WireCommand
  goIntoBootMode : WireCommand
  beginFirmwareDownload : WireCommand
  unlockFirmware : WireCommand
  playTone : WireCommand
  playSystemSound : WireCommand
  /-- The parameter layout of Remote (R324). -/
  remoteParams : List ParamByte
  deriving DecidableEq, Repr

/-- The build-time parameters of 00_scope.md R10, fixed for one CORE. They stand in `State`, where no step changes them, so
that a statement about every state holds for every value of them (DESIGN CHOICE, log 8). -/
structure Build where
  /-- `MAX_PARAMS - 7`, or unbounded: `MAX_PARAMS` is at least 7 (40_frame_codec.md R166). -/
  maxParamsOver7 : Option Nat
  /-- `BUF_CAP`, the capacity of `BT_BUF` in bytes. -/
  bufCap : Nat
  /-- `SLOT_MIN` is 1 rather than 0 (44_wire_commands.md R315). -/
  slotMinIsOne : Bool
  /-- `T_BASE_MS`, the reset value of `CFG_T_BASE` (10_state.md R45). -/
  tBaseMs : Half
  /-- `T_EXT_MS`, the reset value of `CFG_T_EXT` (10_state.md R46). -/
  tExtMs : Half
  /-- `OPC_CONT`, the continuation-download opcode of `CONST_OPC` (10_state.md R48). -/
  opcCont : Byte
  /-- `OPC_REMOTE`, the remote-command opcode of `CONST_OPC` (10_state.md R48). -/
  opcRemote : Byte
  /-- `ST_OKAY` of `CONST_STATUS` (10_state.md R49). -/
  stOkay : Byte
  /-- `ST_BLOCK_CKSUM` of `CONST_STATUS`. -/
  stBlockCksum : Byte
  /-- `ST_FW_CKSUM` of `CONST_STATUS`. -/
  stFwCksum : Byte
  /-- `ST_NOT_ACTIVE` of `CONST_STATUS`. -/
  stNotActive : Byte
  /-- The DownloadStatus NotEnoughMemory, which only a host interprets (44_wire_commands.md R327). -/
  stNotEnoughMemory : Byte
  /-- The DownloadStatus IllegalNumber, which only a host interprets (44_wire_commands.md R327). -/
  stIllegalNumber : Byte
  /-- The largest SystemSound value (44_wire_commands.md R326, R328). -/
  soundMax : Byte
  /-- The opcode table (44_wire_commands.md R310). -/
  wire : WireTable
  deriving DecidableEq, Repr

/-- What one `RxRead` returns (60_exceptions.md R391). -/
structure ReadAnswer where
  bytes : Bytes
  chErr : Bool
  deriving DecidableEq, Repr

namespace Config

/-- The OPEN parameter `T_BASE_MS` of this CORE (00_scope.md R10; log 8). -/
opaque tBaseMs : Half
/-- The OPEN parameter `T_EXT_MS` of this CORE (00_scope.md R10; log 8). -/
opaque tExtMs : Half
/-- The OPEN parameter `BUF_CAP` of this CORE (00_scope.md R10; log 8). -/
opaque bufCap : Nat

/-- The result of the `Open` that is event number `n` of the trace, where `State.link` does not fix it (R13; log 6). -/
opaque freeOpen : Nat → Bool
/-- The result of the `TxWrite` that is event number `n` of the trace (R13; log 6). -/
opaque freeWrite : Nat → Bool
/-- The bytes of the `RxRead` that is event number `n` of the trace (R13; log 6). -/
opaque freeReadBytes : Nat → Bytes
/-- The channel-error bit of the `RxRead` that is event number `n` of the trace (R13; log 6). -/
opaque freeReadErr : Nat → Bool
/-- The elapsed-time source at event number `n` of the trace (60_exceptions.md R396; log 7). -/
opaque freeElapsed : Nat → Word
/-- Whether the CORE emits the diagnostic event at event number `n` of the trace (60_exceptions.md R395, "may"; log 13). -/
opaque freeDiag : Nat → Bool

/-- The odd primes, the parameters of GetVersions and GoIntoBootMode (R313, R321; PRESUMED, log 9). -/
def oddPrimes : List ParamByte := [.fixed 0x01, .fixed 0x03, .fixed 0x05, .fixed 0x07, .fixed 0x0B]

/-- The default opcode table (44_wire_commands.md R310; general knowledge, PRESUMED, log 9). -/
def wireTable : WireTable where
  getVersions := ⟨0x15, oddPrimes⟩
  getBatteryPower := ⟨0x30, []⟩
  selectProgram := ⟨0x91, [.low 0]⟩
  stopAllTasks := ⟨0x50, []⟩
  deleteAllTasks := ⟨0x40, []⟩
  deleteAllSubs := ⟨0x70, []⟩
  beginTaskDownload := ⟨0x25, [.fixed 0x00, .low 0, .fixed 0x00, .low 1, .high 1]⟩
  goIntoBootMode := ⟨0x65, oddPrimes⟩
  beginFirmwareDownload := ⟨0x75, [.low 0, .high 0, .low 1, .high 1, .fixed 0x00]⟩
  unlockFirmware := ⟨0xA5, [.fixed 0x4C, .fixed 0x45, .fixed 0x47, .fixed 0x4F, .fixed 0xAE]⟩
  playTone := ⟨0x23, [.low 0, .high 0, .low 1]⟩
  playSystemSound := ⟨0x51, [.low 0]⟩
  remoteParams := [.high 0, .low 0]

/-- The parameters of this CORE: the defaults of 00_scope.md R10 and 44_wire_commands.md where they give one (the opcodes, the
statuses and the sounds are general knowledge, log 9), the OPEN parameters where they do not. -/
def build : Build where
  maxParamsOver7 := none
  bufCap := bufCap
  slotMinIsOne := false
  tBaseMs := tBaseMs
  tExtMs := tExtMs
  opcCont := 0x45
  opcRemote := 0xD2
  stOkay := 0x00
  stBlockCksum := 0x03
  stFwCksum := 0x04
  stNotActive := 0x06
  stNotEnoughMemory := 0x01
  stIllegalNumber := 0x02
  soundMax := 5
  wire := wireTable

/-! Named constants of 00_scope.md R10. -/

/-- `OPC_PING` (00_scope.md R10; 10_state.md R48). -/
def opcPing : Byte := 0x10
/-- `PRE_REG` (00_scope.md R10). -/
def preReg : Bytes := [0x55, 0xFF, 0x00]
/-- `PRE_FAST` (00_scope.md R10). -/
def preFast : Bytes := [0xFF]
/-- `BACKOFF_UNIT_MS`, the reset value of the field of that name (00_scope.md R10; 10_state.md R44). -/
def backoffUnitMs : Half := 100
/-- `SLOT_MAX` (R10). -/
def slotMax : Nat := 5

/-! Parameters of the host programs (R10; 45_host_sequences.md R342). -/

def blockSizeDefault : Half := 20
def maxRetriesFw : Byte := 5
def maxRetriesProg : Byte := 10
def fwCksumCap : Nat := 19456
def fwStartAddr : Half := 0x8000
def pingAttemptsFw : Nat := 3
def bootAttempts : Nat := 2

end Config

end Sys2Proof
end

