-- ==== Sys2Proof/Machine/State.lean ====
section
/-! DEFINITION. The state of the machine: the CORE's architectural state (10_state.md R30: exactly this), its build parameters,
and the model's own fields for its HOST, its LINK and its reset input; the state after reset; the faults and refusals. -/

namespace Sys2Proof.Machine

/-- `CMD_STATE` (10_state.md R31). -/
inductive CmdState where
  | idle
  | busy
  deriving DecidableEq, Repr

/-- `TX_STATE` (10_state.md R32); the encoding 7 is never held (log 23). -/
inductive TxState where
  | idle
  | sending
  | awaitEcho
  | awaitReply
  | success
  | failed
  | reconnect
  deriving DecidableEq, Repr

/-- `BT_STATE` (10_state.md R33); the encoding 7 is never held (log 23). -/
inductive BtState where
  | idle
  | send
  | check
  | probe
  | backoff
  | complete
  | aborted
  deriving DecidableEq, Repr

/-- The error codes of 60_exceptions.md R370; the codes 14 and 15 are never produced (log 23). -/
inductive ErrCode where
  /-- NONE, 0. -/
  | noErr
  /-- PARAMETER_COUNT_MISMATCH, 1. -/
  | parameterCountMismatch
  /-- ENCODING_ERROR, 2. -/
  | encodingError
  /-- NO_ECHO, 3. -/
  | noEcho
  /-- MISSING_PREAMBLE, 4. -/
  | missingPreamble
  /-- DECODE_ERROR, 5. -/
  | decodeError
  /-- OPCODE_MISMATCH, 6. -/
  | opcodeMismatch
  /-- CHANNEL_ERROR, 7. -/
  | channelError
  /-- BLOCK_TRANSFER_FAILED, 8. -/
  | blockTransferFailed
  /-- LINK_LOST, 9. -/
  | linkLost
  /-- UNSUPPORTED_CHUNK_TYPE, 10: host level only. -/
  | unsupportedChunkType
  /-- OUT_OF_RANGE_PARAMETER, 11. -/
  | outOfRangeParameter
  /-- UNEXPECTED_STATUS, 12: host level only. -/
  | unexpectedStatus
  /-- ILLEGAL_COMMAND, 13. -/
  | illegalCommand
  deriving DecidableEq, Repr

/-- The Command Transceiver: `TX_STATE` and its datapath registers (10_state.md R32, R36). -/
structure Tx where
  state : TxState
  frame : Bytes
  opcode : Byte
  timeout : Half
  ignore : Bool
  rxBuf : Bytes
  ok : Bool
  err : ErrCode
  payload : Option Bytes
  deriving DecidableEq, Repr

/-- The Block Transfer Engine's registers but for `BT_BUF` (10_state.md R33, R37). -/
structure Bt where
  state : BtState
  len : Nat
  bsize : Half
  ext : Bool
  nblocks : BlockOrdinal
  ord : BlockOrdinal
  index : Half
  retry : Byte
  lastStatus : Byte
  failIndex : Half
  failOrd : BlockOrdinal
  elapsed : Word
  deriving DecidableEq, Repr

/-- The command result registers (10_state.md R38). -/
structure Res where
  ok : Bool
  err : ErrCode
  valid : Bool
  payload : Option Bytes
  value : Word
  deriving DecidableEq, Repr

/-- The RW fields of the register map (10_state.md R41 to R47). -/
structure Cfg where
  fast : Bool
  glitchyEn : Bool
  resetOnReconnect : Bool
  maxRetries : Byte
  backoffLinear : Bool
  backoffUnitMs : Half
  tBaseMs : Half
  tExtMs : Half
  oneToN : Bool
  deriving DecidableEq, Repr

/-- The block buffer `BT_BUF` (20_memory.md R90): its written bytes by offset, the offsets rising (log 14). -/
abbrev Memory := List Host.Cell

/-- A response at the command port (43_control.md R280). -/
structure Response where
  ok : Bool
  err : ErrCode
  valid : Bool
  payload : Option Bytes
  value : Word
  deriving DecidableEq, Repr

/-- What an observer of the CORE sees (00_scope.md R9), in one order (60_exceptions.md R394). -/
inductive Event where
  /-- `Open(p)` and its answer (60_exceptions.md R391). -/
  | opened (p : Bytes) (ok : Bool)
  /-- `Close()`. -/
  | closed
  /-- `TxWrite(frame)` and its answer. -/
  | wrote (frame : Bytes) (ok : Bool)
  /-- `Delay(ms)` (60_exceptions.md R392). -/
  | delayed (ms : Nat)
  /-- `RxRead(ms)` and its answer. -/
  | received (ms : Nat) (answer : ReadAnswer)
  /-- `Progress(k, N, elapsed)` (60_exceptions.md R394). -/
  | progress (k : BlockOrdinal) (n : BlockOrdinal) (elapsed : Word)
  /-- `Diag(bytes)` (60_exceptions.md R395). -/
  | diag (bytes : Bytes)
  /-- The response of a command (43_control.md R280). -/
  | response (r : Response)
  deriving DecidableEq, Repr

/-- The answers the LINK is going to give, each list oldest first. Where a list has ended, the answer is a free value of
`Config` (00_scope.md R13; log 6, log 7). -/
structure LinkScript where
  opens : List Bool
  writes : List Bool
  reads : List ReadAnswer
  elapsed : List Word
  deriving DecidableEq, Repr

/-- One transaction of the HOST: a command at the command port, or a wire-command wrapper call, as bytes (log 1, log 4). -/
structure Request where
  port : Port
  bytes : Bytes
  deriving DecidableEq, Repr

/-- The result of a wire-command wrapper (44_wire_commands.md R311; log 15). -/
structure HostResult where
  ok : Bool
  err : ErrCode
  payload : Option Bytes
  deriving DecidableEq, Repr

/-- When the reset input is asserted next (70_reset_and_hazards.md R402; log 11). -/
inductive ResetInput where
  | notAsserted
  /-- While the CORE is IDLE, before it takes another command. -/
  | betweenCommands
  /-- During the next command, once this many of its events have happened (after it, if it has no more events). -/
  | duringCommand (events : Nat)
  deriving DecidableEq, Repr

/-- The state of the machine. -/
structure State where
  /-- `CMD_STATE` (10_state.md R31). -/
  cmdState : CmdState
  /-- `TOGGLE` (10_state.md R34). -/
  toggle : Bool
  /-- `LINK_OPEN` (10_state.md R35). -/
  linkOpen : Bool
  /-- `SAVED_PARAMS` (10_state.md R35). -/
  savedParams : Option Bytes
  /-- `TX_*` and `RX_BUF` (10_state.md R32, R36). -/
  tx : Tx
  /-- `BT_*` but for `BT_BUF` (10_state.md R33, R37). -/
  bt : Bt
  /-- `BT_BUF` (10_state.md R37; 20_memory.md R90 to R92). -/
  mem : Memory
  /-- `RES_*` (10_state.md R38). -/
  res : Res
  /-- The configuration registers (10_state.md R41 to R47). -/
  cfg : Cfg
  /-- The build parameters, the read-only constants of `CONST_OPC` and `CONST_STATUS` among them (00_scope.md R10; 10_state.md
  R48, R49; log 8). -/
  build : Build
  /-- The MODEL's own: the requests presented and not taken yet (43_control.md R280; log 20). -/
  pending : List Request
  /-- The MODEL's own: the LINK's answers to come (00_scope.md R13; log 6). -/
  link : LinkScript
  /-- The MODEL's own: what has been observed so far, oldest first (00_scope.md R9; log 19). -/
  trace : List Event
  /-- The MODEL's own: the result of the HOST's last wrapper (44_wire_commands.md R311; log 15). -/
  hostRes : Option HostResult
  /-- The MODEL's own: the reset input (70_reset_and_hazards.md R402; log 11). -/
  resetInput : ResetInput
  /-- The MODEL's own: how many more transport calls the LINK answers before one that it never answers, if it ever hangs
  (60_exceptions.md R391; log 12). -/
  hangIn : Option Nat
  deriving DecidableEq, Repr

/-- Why the machine stops with a fault. -/
inductive Fault where
  /-- An access to `BT_BUF` outside the bounds of 20_memory.md R92, raised by SEND_BUFFER's block read. Safe: the rules never
  make one (R92), so it marks a bug of the model (93_implementation_defined.md U19). -/
  | btBufOutOfRange
  /-- The LINK never answers a transport call and the CORE waits for ever, having no watchdog (60_exceptions.md R391;
  93_implementation_defined.md U15), raised by `step` where the state's `hangIn` says so. Safe: the machine is stuck (log 12). -/
  | linkNeverAnswers
  deriving DecidableEq, Repr

/-- Why the machine refuses to go on. -/
inductive Refusal where
  /-- An instruction without a meaning yet, raised by `exec`. Safe. -/
  | notModelled (mnemonic : String)
  /-- A wrapper call whose first byte is no opcode of the closed table (44_wire_commands.md R310), raised by `step`. Safe: it
  names no wrapper, so there is nothing to run (log 1). -/
  | unknownWrapper (opcode : Byte)
  /-- A request whose bytes are no instruction with exactly its operands, raised by `step`. Safe: the command port takes "a
  command word and its operands" (43_control.md R280) and nothing else is a command (log 4). -/
  | malformedRequest
  deriving DecidableEq, Repr

/-- The CORE with build parameters `b` right after reset (70_reset_and_hazards.md R400), the model's own fields empty (log 22). -/
def State.resetOf (b : Build) : State where
  cmdState := .idle
  toggle := false
  linkOpen := false
  savedParams := none
  tx := {
    state := .idle, frame := [], opcode := 0, timeout := 0, ignore := false, rxBuf := [], ok := false, err := .noErr
    payload := none }
  bt := {
    state := .idle, len := 0, bsize := 0, ext := false, nblocks := 0, ord := 0, index := 0, retry := 0, lastStatus := 0
    failIndex := 0, failOrd := 0, elapsed := 0 }
  mem := []
  res := { ok := false, err := .noErr, valid := false, payload := none, value := 0 }
  cfg := {
    fast := false, glitchyEn := true, resetOnReconnect := false, maxRetries := 10, backoffLinear := true
    backoffUnitMs := Config.backoffUnitMs, tBaseMs := b.tBaseMs, tExtMs := b.tExtMs, oneToN := false }
  build := b
  pending := []
  link := { opens := [], writes := [], reads := [], elapsed := [] }
  trace := []
  hostRes := none
  resetInput := .notAsserted
  hangIn := none

/-- The machine right after reset (70_reset_and_hazards.md R400). -/
def State.reset : State := State.resetOf Config.build

/-- An outcome of this machine. -/
abbrev Result := Host.Outcome State Fault Refusal

/-! ## Updates, one per field that an operation writes -/

def State.setCmdState (v : CmdState) (s : State) : State := { s with cmdState := v }
def State.setToggle (v : Bool) (s : State) : State := { s with toggle := v }
def State.setLinkOpen (v : Bool) (s : State) : State := { s with linkOpen := v }
def State.setSavedParams (v : Option Bytes) (s : State) : State := { s with savedParams := v }
def State.setTx (v : Tx) (s : State) : State := { s with tx := v }
def State.setBt (v : Bt) (s : State) : State := { s with bt := v }
def State.setMem (v : Memory) (s : State) : State := { s with mem := v }
def State.setRes (v : Res) (s : State) : State := { s with res := v }
def State.setCfg (v : Cfg) (s : State) : State := { s with cfg := v }
def State.setPending (v : List Request) (s : State) : State := { s with pending := v }
def State.setLink (v : LinkScript) (s : State) : State := { s with link := v }
def State.setTrace (v : List Event) (s : State) : State := { s with trace := v }
def State.setHostRes (v : Option HostResult) (s : State) : State := { s with hostRes := v }
def State.setResetInput (v : ResetInput) (s : State) : State := { s with resetInput := v }
def State.setHangIn (v : Option Nat) (s : State) : State := { s with hangIn := v }

end Sys2Proof.Machine
end

