-- ==== Sys2Proof/Machine/Ops.lean ====
section
/-! DEFINITION. The named operations: `BT_BUF`, the transport port and the delay timer, ending a command with an error (the
CORE's only kind of exception, 60_exceptions.md R371), the command port, and reset. -/

namespace Sys2Proof.Machine

/-! ## The block buffer `BT_BUF` (20_memory.md R90 to R92) -/

/-- What an offset that nothing has written reads as: no value, so that reading it is out of bounds (log 14). -/
def Memory.unlisted : Option Byte := none

/-- The canonical form: offsets strictly rising (an unlisted offset has no value, so no entry can equal it). -/
def Memory.wf : Memory → Bool
  | [] => true
  | [_] => true
  | c :: d :: m => decide (c.1 < d.1) && Memory.wf (d :: m)

/-- The byte at one offset. -/
def Memory.readByte : Memory → Nat → Option Byte
  | [], _ => Memory.unlisted
  | c :: m, a => if c.1 = a then some c.2 else Memory.readByte m a

/-- Writes one byte, keeping the canonical form. -/
def Memory.writeByte : Memory → Nat → Byte → Memory
  | [], a, v => [(a, v)]
  | c :: m, a, v =>
    if a < c.1 then (a, v) :: c :: m
    else if a = c.1 then (a, v) :: m
    else c :: Memory.writeByte m a v

/-- The `n` bytes from offset `off`. -/
def Memory.readBytes (m : Memory) : Nat → Nat → Option Bytes
  | _, 0 => some []
  | off, n + 1 =>
    match Memory.readByte m off, Memory.readBytes m (off + 1) n with
    | some b, some bs => some (b :: bs)
    | _, _ => none

/-- Writes a byte string from offset `off`. -/
def Memory.writeBytes : Memory → Nat → Bytes → Memory
  | m, _, [] => m
  | m, off, b :: bs => Memory.writeBytes (m.writeByte off b) (off + 1) bs

/-- `MemRead(BT_BUF, off, n)`, defined when `off + n` is at most `BUF_CAP` and `BT_LEN` (20_memory.md R92). -/
def memRead (off n : Nat) (s : State) : Option Bytes :=
  if off + n ≤ s.build.bufCap ∧ off + n ≤ s.bt.len then s.mem.readBytes off n else none

/-- `MemWrite(BT_BUF, off, n, v)`, defined when `off + n` is at most `BUF_CAP` (20_memory.md R92). -/
def memWrite (off : Nat) (v : Bytes) (s : State) : Option State :=
  if off + v.length ≤ s.build.bufCap then some (s.setMem (s.mem.writeBytes off v)) else none

/-- The byte loop of 20_memory.md R91, from offset `i`. -/
def loadBytes : Nat → Bytes → State → Option State
  | _, [], s => some s
  | i, b :: bs, s =>
    match memWrite i [b] s with
    | some s => loadBytes (i + 1) bs s
    | none => none

/-- Loads `BT_BUF` whole from DATA and sets `BT_LEN` (20_memory.md R91; what it held before is gone, log 14). -/
def loadBtBuf (data : Bytes) (s : State) : Option State :=
  match loadBytes 0 data (s.setMem []) with
  | some s => some (s.setBt { s.bt with len := data.length })
  | none => none

/-! ## The transport port and the delay timer (60_exceptions.md R391, R392) -/

/-- The LINK's answers that are left after an event that took one. -/
def LinkScript.advance (l : LinkScript) : Event → LinkScript
  | .opened _ _ => { l with opens := l.opens.tail }
  | .wrote _ _ => { l with writes := l.writes.tail }
  | .received _ _ => { l with reads := l.reads.tail }
  | .progress _ _ _ => { l with elapsed := l.elapsed.tail }
  | .closed => l
  | .delayed _ => l
  | .diag _ => l
  | .response _ => l

/-- An event happens: it joins the trace, and the answer it took is gone. -/
def note (e : Event) (s : State) : State := (s.setTrace (s.trace ++ [e])).setLink (s.link.advance e)

/-- The LINK's answer to the next `Open`: a draw (00_scope.md R13). -/
def openAnswer (s : State) : Bool := s.link.opens.headD (Config.freeOpen s.trace.length)

/-- The LINK's answer to the next `TxWrite`: a draw (00_scope.md R13). -/
def writeAnswer (s : State) : Bool := s.link.writes.headD (Config.freeWrite s.trace.length)

/-- The LINK's answer to the next `RxRead`: a draw (00_scope.md R13). -/
def readAnswer (s : State) : ReadAnswer :=
  s.link.reads.headD ⟨Config.freeReadBytes s.trace.length, Config.freeReadErr s.trace.length⟩

/-- The next elapsed time: a draw, never smaller than `BT_ELAPSED` (42_block_transfer.md R247; 60_exceptions.md R396; log 7). -/
def elapsedAnswer (s : State) : Word :=
  let draw := s.link.elapsed.headD (Config.freeElapsed s.trace.length)
  if s.bt.elapsed ≤ draw then draw else s.bt.elapsed

/-- `Open(p)`; `LINK_OPEN` becomes its answer (10_state.md R35; 60_exceptions.md R391). -/
def openLink (p : Bytes) (s : State) : State :=
  let ok := openAnswer s
  (note (.opened p ok) s).setLinkOpen ok

/-- `Close()`; `LINK_OPEN` becomes 0 (10_state.md R35; 60_exceptions.md R391). -/
def closeLink (s : State) : State := (note .closed s).setLinkOpen false

/-- `TxWrite(frame)` (60_exceptions.md R391); its answer is `writeAnswer` of the state before. -/
def txWrite (frame : Bytes) (s : State) : State := note (.wrote frame (writeAnswer s)) s

/-- `RxRead(ms)` (60_exceptions.md R391); its answer, `readAnswer` of the state before, goes to `RX_BUF` (10_state.md R36). -/
def rxRead (ms : Half) (s : State) : State :=
  let answer := readAnswer s
  (note (.received ms.toNat answer) s).setTx { s.tx with rxBuf := answer.bytes }

/-- `Delay(ms)`: an event without time semantics (60_exceptions.md R392). -/
def delay (ms : Nat) (s : State) : State := note (.delayed ms) s

/-! ## How a command ends (10_state.md R38; 60_exceptions.md R371, R374) -/

/-- The success exit: `RES_OK <- 1; RES_ERR <- NONE`. -/
def finishOk (s : State) : State := s.setRes { s.res with ok := true, err := .noErr }

/-- Meeting an error (60_exceptions.md R371): `RES_OK <- 0; RES_ERR <- code`; nothing is vectored, saved or rolled back, and
there is no return from it (R374). What becomes of `RES_PAYLOAD` is the command's own rule. -/
def raiseError (e : ErrCode) (s : State) : State := s.setRes { s.res with ok := false, err := e }

/-- `RES_PAYLOAD <- p`. -/
def setPayload (p : Option Bytes) (s : State) : State := s.setRes { s.res with payload := p }

/-- `RES_VALUE <- v`. -/
def setValue (v : Word) (s : State) : State := s.setRes { s.res with value := v }

/-! ## The command port (43_control.md R280) -/

/-- The CORE takes a command: `CMD_STATE <- BUSY`. -/
def accept (s : State) : State := s.setCmdState .busy

/-- The response that the result registers hold. -/
def responseOf (r : Res) : Response := ⟨r.ok, r.err, r.valid, r.payload, r.value⟩

/-- The CORE delivers its response and is ready again: `CMD_STATE <- IDLE`. -/
def respond (s : State) : State := (note (.response (responseOf s.res)) s).setCmdState .idle

/-- One command at the command port: taken, executed to completion, answered (R280). -/
def runCommand (body : State → Result) (s : State) : Result :=
  match body (accept s) with
  | .next t => .next (respond t)
  | .fault r => .fault r
  | .refused r => .refused r

/-- One command whose execution always completes. -/
def command (body : State → State) (s : State) : State := respond (body (accept s))

/-! ## Reset (70_reset_and_hazards.md R400 to R402) -/

/-- The reset input: every register of the CORE takes its reset value, whatever command ran; no transport event, no response
(R400, R401, R402). What belongs to the HOST, the LINK and the observer stays. -/
def resetCore (s : State) : State :=
  { State.resetOf s.build with
    pending := s.pending, link := s.link, trace := s.trace, hostRes := s.hostRes, hangIn := s.hangIn }

end Sys2Proof.Machine
end

