-- ==== Sys2Proof/Machine/Flags.lean ====
section
/-! DEFINITION. The flags and codes as bits, and how an exchange sets `TX_OK` and `TX_ERR` (10_state.md R32, R33, R39;
41_transceiver.md R201; 60_exceptions.md R370). -/

namespace Sys2Proof.Machine

/-- The encoding of `TX_STATE` (10_state.md R32). -/
def txStateBits : TxState → BitVec 3
  | .idle => 0
  | .sending => 1
  | .awaitEcho => 2
  | .awaitReply => 3
  | .success => 4
  | .failed => 5
  | .reconnect => 6

/-- The encoding of `BT_STATE` (10_state.md R33). -/
def btStateBits : BtState → BitVec 3
  | .idle => 0
  | .send => 1
  | .check => 2
  | .probe => 3
  | .backoff => 4
  | .complete => 5
  | .aborted => 6

/-- The numbers of the error codes (60_exceptions.md R370). -/
def errBits : ErrCode → BitVec 4
  | .noErr => 0
  | .parameterCountMismatch => 1
  | .encodingError => 2
  | .noEcho => 3
  | .missingPreamble => 4
  | .decodeError => 5
  | .opcodeMismatch => 6
  | .channelError => 7
  | .blockTransferFailed => 8
  | .linkLost => 9
  | .unsupportedChunkType => 10
  | .outOfRangeParameter => 11
  | .unexpectedStatus => 12
  | .illegalCommand => 13

/-- A one-bit field. -/
def bit (b : Bool) : BitVec 1 := BitVec.ofBool b

/-- Enters a transceiver state. -/
def enterTx (st : TxState) (s : State) : State := s.setTx { s.tx with state := st }

/-- Enters a block-engine state. -/
def enterBt (st : BtState) (s : State) : State := s.setBt { s.bt with state := st }

/-- `Fail(e)` of the transceiver (41_transceiver.md R201): the payload is NULL on every failure (R207). -/
def failExchange (e : ErrCode) (s : State) : State :=
  s.setTx { s.tx with state := .failed, ok := false, err := e, payload := none }

/-- `Succ(p)` of the transceiver (41_transceiver.md R201). -/
def succExchange (p : Option Bytes) (s : State) : State :=
  s.setTx { s.tx with state := .success, ok := true, err := .noErr, payload := p }

/-- The result of the last exchange as the result of the command (41_transceiver.md R214). -/
def takeExchangeResult (s : State) : State :=
  s.setRes { s.res with ok := s.tx.ok, err := s.tx.err, payload := s.tx.payload }

end Sys2Proof.Machine
end

