-- ==== Sys2Proof/Machine/Operands.lean ====
section
/-! DEFINITION. The operand forms: the register map that CFG_WRITE, CFG_READ and STATUS_READ address (10_state.md R40 to R56),
the byte sums and the byte layouts of parameters (30_encoding.md R114, R117; 44_wire_commands.md R310). -/

namespace Sys2Proof.Machine

/-! ## Byte sums (30_encoding.md R117) -/

/-- `sum(xs)`: the integer sum of a byte string (00_scope.md R12). -/
def sumBytes : Bytes → Nat
  | [] => 0
  | b :: bs => b.toNat + sumBytes bs

/-- `sum(xs) mod 256` as a byte. -/
def checksum (bs : Bytes) : Byte := BitVec.ofNat 8 (sumBytes bs)

/-! ## The register map (10_state.md R40) -/

/-- The OPC fields of `CONST_OPC` (10_state.md R48). -/
def constOpcWord (b : Build) : Word :=
  (0#8 ++ b.opcRemote ++ b.opcCont ++ Config.opcPing : BitVec (8 + 8 + 8 + 8))

/-- `CONST_STATUS` (10_state.md R49). -/
def constStatusWord (b : Build) : Word :=
  (b.stNotActive ++ b.stFwCksum ++ b.stBlockCksum ++ b.stOkay : BitVec (8 + 8 + 8 + 8))

/-- `CFG_RETRY` (10_state.md R44). -/
def cfgRetryWord (c : Cfg) : Word :=
  (c.backoffUnitMs ++ 0#7 ++ bit c.backoffLinear ++ c.maxRetries : BitVec (16 + 7 + 1 + 8))

/-- `STATUS` (10_state.md R50). -/
def statusWord (s : State) : Word :=
  (0#12 ++ errBits s.tx.err ++ errBits s.res.err ++ 0#1 ++ bit s.tx.ok ++ bit s.res.valid ++ bit s.res.ok
    ++ bit s.linkOpen ++ bit s.toggle ++ btStateBits s.bt.state ++ txStateBits s.tx.state :
      BitVec (12 + 4 + 4 + 1 + 1 + 1 + 1 + 1 + 1 + 3 + 3))

/-- `BT_POS` (10_state.md R53). -/
def btPosWord (b : Bt) : Word := (b.lastStatus ++ b.retry ++ b.index : BitVec (8 + 8 + 16))

/-- The register at an address, or no register there (10_state.md R40 to R56). -/
def readRegister (addr : Byte) (s : State) : Option Word :=
  match addr.toNat with
  | 0x00 => some ((bit s.cfg.fast).setWidth 32)
  | 0x01 => some ((bit s.cfg.glitchyEn).setWidth 32)
  | 0x02 => some ((bit s.toggle ++ bit s.cfg.resetOnReconnect : BitVec (1 + 1)).setWidth 32)
  | 0x03 => some (cfgRetryWord s.cfg)
  | 0x04 => some (s.cfg.tBaseMs.setWidth 32)
  | 0x05 => some (s.cfg.tExtMs.setWidth 32)
  | 0x06 => some ((bit s.cfg.oneToN).setWidth 32)
  | 0x08 => some (constOpcWord s.build)
  | 0x09 => some (constStatusWord s.build)
  | 0x10 => some (statusWord s)
  | 0x11 => some (s.bt.ord.setWidth 32)
  | 0x12 => some (s.bt.nblocks.setWidth 32)
  | 0x13 => some (btPosWord s.bt)
  | 0x14 => some (s.bt.failIndex.setWidth 32)
  | 0x15 => some (s.bt.failOrd.setWidth 32)
  | 0x16 => some s.bt.elapsed
  | _ => none

/-- The configuration after a write of `v` to the register at an address, or no RW register there: only the RW fields of the
addressed register change (10_state.md R56; 43_control.md R284). -/
def writeRegister (addr : Byte) (v : Word) (c : Cfg) : Option Cfg :=
  match addr.toNat with
  | 0x00 => some { c with fast := v.getLsbD 0 }
  | 0x01 => some { c with glitchyEn := v.getLsbD 0 }
  | 0x02 => some { c with resetOnReconnect := v.getLsbD 0 }
  | 0x03 => some { c with
      maxRetries := v.extractLsb' 0 8, backoffLinear := v.getLsbD 8, backoffUnitMs := v.extractLsb' 16 16 }
  | 0x04 => some { c with tBaseMs := v.extractLsb' 0 16 }
  | 0x05 => some { c with tExtMs := v.extractLsb' 0 16 }
  | 0x06 => some { c with oneToN := v.getLsbD 0 }
  | _ => none

/-! ## Parameter layouts -/

/-- The parameters of a block: `[lo(idx), hi(idx), lo(m), hi(m)] ++ d ++ [sum(d) mod 256]` (30_encoding.md R114). -/
def blockHeader (idx : Half) (d : Bytes) : Bytes :=
  halfBytes idx ++ halfBytes (BitVec.ofNat 16 d.length) ++ d ++ [checksum d]

/-- The byte of a parameter layout for the operands `args`; an operand that the wrapper does not have counts as 0, and the
default table names none (log 8). -/
def ParamByte.value (args : List Half) : ParamByte → Byte
  | .fixed b => b
  | .low k => lo (args.getD k 0)
  | .high k => hi (args.getD k 0)

/-- The parameters of a wire command for the operands `args` (44_wire_commands.md R310). -/
def paramBytes (layout : List ParamByte) (args : List Half) : Bytes := layout.map (ParamByte.value args)

/-- `SLOT_MIN` (00_scope.md R10; 44_wire_commands.md R315). -/
def slotMin (b : Build) : Nat := if b.slotMinIsOne then 1 else 0

end Sys2Proof.Machine
end

