-- ==== Sys2Proof/Machine/FrameCodec.lean ====
section
/-! DEFINITION. The Frame Codec and the Toggle-Bit Sequencer, and the commands ENCODE and DECODE (40_frame_codec.md). -/

namespace Sys2Proof.Machine

/-! ## Encoding (40_frame_codec.md R160 to R166) -/

/-- `opc` is one of the two exception opcodes, compared as whole bytes (R163). -/
def isException (b : Build) (opc : Byte) : Bool := opc == b.opcCont || opc == b.opcRemote

/-- `n` parameters are more than `MAX_PARAMS`, which is at least 7 or unbounded (R166). -/
def exceedsMaxParams (b : Build) (n : Nat) : Bool :=
  if n ≤ 7 then false
  else match b.maxParamsOver7 with
    | some extra => decide (7 + extra < n)
    | none => false

/-- The checks of EncodeFrame, in its order (R160, R163, R166). -/
def encodeCheck (b : Build) (opc : Byte) (n : Nat) : Option ErrCode :=
  if !isException b opc && n != (opc.extractLsb' 0 3).toNat then some .parameterCountMismatch
  else if exceedsMaxParams b n then some .encodingError
  else none

/-- The transmitted opcode: `opc OR (TOGGLE << 3)` (R161). -/
def mixToggle (toggle : Bool) (opc : Byte) : Byte := opc ||| (if toggle then 0x08 else 0x00)

/-- Every byte followed by its complement (30_encoding.md R110). -/
def withComplements : Bytes → Bytes
  | [] => []
  | b :: bs => b :: ~~~b :: withComplements bs

/-- The preamble of the profile (30_encoding.md R110, R111; 00_scope.md R10). -/
def preamble (fast : Bool) : Bytes := if fast then Config.preFast else Config.preReg

/-- The body bytes of a frame: opcode, parameters, checksum over them (30_encoding.md R110, R111; R164). -/
def frameBody (op : Byte) (params : Bytes) : Bytes := op :: (params ++ [checksum (op :: params)])

/-- The frame of a transmitted opcode and its parameters (30_encoding.md R110, R111). -/
def frameOf (fast : Bool) (op : Byte) (params : Bytes) : Bytes :=
  preamble fast ++ (if fast then frameBody op params else withComplements (frameBody op params))

/-- What EncodeFrame returns (R160). -/
def encodeResult (opc : Byte) (params : Bytes) (s : State) : Except ErrCode Bytes :=
  match encodeCheck s.build opc params.length with
  | some e => .error e
  | none => .ok (frameOf s.cfg.fast (mixToggle s.toggle opc) params)

/-- What EncodeFrame writes: `TOGGLE` inverts exactly when it succeeds (R160, R162). -/
def encodeToggle (opc : Byte) (params : Bytes) (s : State) : State :=
  match encodeCheck s.build opc params.length with
  | some _ => s
  | none => s.setToggle (!s.toggle)

/-! ## Decoding (40_frame_codec.md R170 to R173) -/

/-- The first byte of every pair of a body whose pairs are all complete and complementary (R170). -/
def unpair : Bytes → Option Bytes
  | [] => some []
  | [_] => none
  | x :: y :: bs => if y = ~~~x then (unpair bs).map (x :: ·) else none

/-- The payload of a body without complements: everything before a checksum that agrees with it (R170, R171). -/
def checkedPayload (body : Bytes) : Option Bytes :=
  match body.getLast? with
  | none => none
  | some cs => if cs = checksum body.dropLast then some body.dropLast else none

/-- `DecodeFrame(raw)`: `valid` and `payload` (R170 for the regular profile, R171 for the fast one). A missing preamble strips
nothing; every later failure returns the bytes after the preamble (R172). -/
def decodeFrame (fast : Bool) (raw : Bytes) : Bool × Bytes :=
  let pre := preamble fast
  if raw.take pre.length = pre then
    let b := raw.drop pre.length
    match (if fast then some b else unpair b).bind checkedPayload with
    | some p => (true, p)
    | none => (false, b)
  else (false, raw)

/-! ## ENCODE and DECODE -/

/-- The body of ENCODE (R165). -/
def encodeBody (opc : Byte) (params : Bytes) (s : State) : State :=
  match encodeResult opc params s with
  | .ok frame => setPayload (some frame) (finishOk (encodeToggle opc params s))
  | .error e => setPayload none (raiseError e (encodeToggle opc params s))

/-- The diagnostic event that an invalid DECODE with QUIET = 0 may emit (R176; 60_exceptions.md R395; log 13). -/
def diagEvents (quiet : Bool) (p : Bytes) (s : State) : List Event :=
  if !quiet && Config.freeDiag s.trace.length then [.diag p] else []

/-- Emits the diagnostic event, which takes no answer of the LINK, or nothing. -/
def maybeDiag (quiet : Bool) (p : Bytes) (s : State) : State := s.setTrace (s.trace ++ diagEvents quiet p s)

/-- `RES_VALID <- v`. -/
def setValid (v : Bool) (s : State) : State := s.setRes { s.res with valid := v }

/-- The body of DECODE (R175). -/
def decodeBody (quiet : Bool) (raw : Bytes) (s : State) : State :=
  let (v, p) := decodeFrame s.cfg.fast raw
  let s := setPayload (some p) (setValid v s)
  if v then finishOk s else maybeDiag quiet p (raiseError .decodeError s)

/-- ENCODE (40_frame_codec.md R165). -/
def execEncode (opc : Byte) (params : Bytes) (s : State) : Result := .next (command (encodeBody opc params) s)

/-- DECODE (40_frame_codec.md R175). -/
def execDecode (quiet : Bool) (raw : Bytes) (s : State) : Result := .next (command (decodeBody quiet raw) s)

end Sys2Proof.Machine
end

