-- ==== Sys2Proof/Machine/Transceiver.lean ====
section
/-! DEFINITION. The Command Transceiver (41_transceiver.md): one exchange, stage by stage as R201 writes it, and TRANSCEIVE. -/

namespace Sys2Proof.Machine

/-- `Open(SAVED_PARAMS)`, where `SAVED_PARAMS` has a value (R211). -/
def openSaved (s : State) : State :=
  match s.savedParams with
  | some p => openLink p s
  | none => s

/-- The toggle clear of a reconnect (R211; 10_state.md R34, R43). -/
def reconnectToggle (s : State) : State := if s.cfg.resetOnReconnect then s.setToggle false else s

/-- `Reconnect()`: one attempt, inside the exchange that caused it (R211). -/
def reconnect (s : State) : State := reconnectToggle (openSaved (closeLink (enterTx .reconnect s)))

/-- Removes the echo of `frame` from the received bytes: the exact match first, then, where it is enabled, the match after
exactly one leading byte (R205). -/
def stripEcho (glitchyEn : Bool) (frame rx : Bytes) : Option Bytes :=
  if rx.take frame.length = frame then some (rx.drop frame.length)
  else if glitchyEn = true ∧ frame.length + 1 ≤ rx.length ∧ (rx.drop 1).take frame.length = frame then
    some (rx.drop (frame.length + 1))
  else none

/-- The reply opcode is the complement of the byte sent; an empty payload has none (R208). -/
def replyOpcodeMatches (sent : Byte) : Bytes → Bool
  | [] => false
  | b :: _ => b ^^^ sent == 0xFF

/-- The reply steps: preamble, decode, opcode (R206, R207, R208). -/
def checkReply (rem : Bytes) (s : State) : State :=
  let pre := preamble s.cfg.fast
  if rem.take pre.length = pre then
    match decodeFrame s.cfg.fast rem with
    | (false, _) => failExchange .decodeError s
    | (true, p) => if replyOpcodeMatches s.tx.opcode p then succExchange (some p) s else failExchange .opcodeMismatch s
  else failExchange .missingPreamble s

/-- The echo step (R205). -/
def checkEcho (frame rx : Bytes) (s : State) : State :=
  match stripEcho s.cfg.glitchyEn frame rx with
  | some rem => checkReply rem (enterTx .awaitReply s)
  | none => failExchange .noEcho s

/-- The ignore and channel steps, after the read (R209, R210). -/
def checkRead (frame : Bytes) (ign : Bool) (answer : ReadAnswer) (s : State) : State :=
  if ign then succExchange none s
  else if answer.chErr then failExchange .channelError (reconnect s)
  else checkEcho frame answer.bytes s

/-- The delay and read steps (R216), then the checks. -/
def awaitAnswer (frame : Bytes) (tmo : Half) (ign : Bool) (s : State) : State :=
  let s := enterTx .awaitEcho (delay tmo.toNat s)
  checkRead frame ign (readAnswer s) (rxRead tmo s)

/-- The write step (R212). -/
def writeFrame (frame : Bytes) (tmo : Half) (ign : Bool) (s : State) : State :=
  if writeAnswer s then awaitAnswer frame tmo ign (txWrite frame s)
  else failExchange .channelError (reconnect (txWrite frame s))

/-- The length of the preamble, `PL` (R201). -/
def preambleLength (fast : Bool) : Nat := if fast then 1 else 3

/-- After a successful encode: the length check, which never fires (R204), `TX_FRAME` and `TX_OPCODE`, and the write. -/
def sendFrame (frame : Bytes) (tmo : Half) (ign : Bool) (s : State) : State :=
  if frame.length = 0 ∨ frame.length < preambleLength s.cfg.fast then failExchange .encodingError s
  else
    writeFrame frame tmo ign
      (s.setTx { s.tx with frame := frame, opcode := frame.getD (preambleLength s.cfg.fast) 0 })

/-- The encode step (R204). -/
def encodeAndSend (opc : Byte) (params : Bytes) (tmo : Half) (ign : Bool) (s : State) : State :=
  match encodeResult opc params s with
  | .error e => failExchange e (encodeToggle opc params s)
  | .ok frame => sendFrame frame tmo ign (encodeToggle opc params s)

/-- `Transceive(opc, params, tmo, ign)`: one exchange (R201). Its result `(ok, err, payload)` is `TX_OK`, `TX_ERR` and
`TX_PAYLOAD` of the state it leaves. -/
def transceive (opc : Byte) (params : Bytes) (tmo : Half) (ign : Bool) (s : State) : State :=
  let s := s.setTx { s.tx with timeout := tmo, ignore := ign }
  if s.linkOpen then encodeAndSend opc params tmo ign (enterTx .sending s)
  else failExchange .channelError s

/-- The body of TRANSCEIVE (R214). -/
def transceiveBody (opc : Byte) (params : Bytes) (tmo : Half) (ign : Bool) (s : State) : State :=
  takeExchangeResult (transceive opc params tmo ign s)

/-- TRANSCEIVE (41_transceiver.md R214). -/
def execTransceive (ign : Bool) (opc : Byte) (params : Bytes) (tmo : Half) (s : State) : Result :=
  .next (command (transceiveBody opc params tmo ign) s)

end Sys2Proof.Machine
end

