-- ==== Sys2Proof/Machine/BlockTransfer.lean ====
section
/-! DEFINITION. The Block Transfer Engine (42_block_transfer.md): segmentation, the retry loop and SEND_BUFFER. -/

namespace Sys2Proof.Machine

/-! ## Segmentation (42_block_transfer.md R242 to R244) -/

/-- N, the number of blocks of a buffer of `len` bytes: `ceil(len / bsize)` (R242). -/
def numBlocks (len bsize : Nat) : Nat := (len + bsize - 1) / bsize

/-- The offset of block k (R243). -/
def blockOffset (bsize k : Nat) : Nat := (k - 1) * bsize

/-- The length of block k (R243). -/
def blockLength (len bsize k : Nat) : Nat := min bsize (len - blockOffset bsize k)

/-- The wire index of block k of n (R243). -/
def blockIndex (oneToN : Bool) (n k : Nat) : Half := if !oneToN && k == n then 0 else BitVec.ofNat 16 k

/-- `Block(k)`: the wire index and the parameters of block k, read from `BT_BUF` (R243, R244). -/
def block (k : Nat) (s : State) : Option (Half × Bytes) :=
  let bsize := s.bt.bsize.toNat
  match memRead (blockOffset bsize k) (blockLength s.bt.len bsize k) s with
  | some d =>
    let idx := blockIndex s.cfg.oneToN s.bt.nblocks.toNat k
    some (idx, blockHeader idx d)
  | none => none

/-! ## The outcome of an attempt (42_block_transfer.md R245, R246) -/

/-- The six outcomes of R245. -/
inductive AttemptOutcome where
  | okay
  | blockChecksumError
  | fwChecksumError
  | downloadNotActive
  | unexpectedStatus
  | transceiveFailed
  deriving DecidableEq, Repr

/-- The status byte of a continuation reply: byte 1 of its payload, where it has one (R246). -/
def statusByte : Option Bytes → Option Byte
  | some (_ :: st :: _) => some st
  | _ => none

/-- The classification of a reply's status; of two equal constants the first row of R245 applies (R246). -/
def classifyStatus (b : Build) : Option Byte → AttemptOutcome
  | none => .unexpectedStatus
  | some st =>
    if st = b.stOkay then .okay
    else if st = b.stBlockCksum then .blockChecksumError
    else if st = b.stFwCksum then .fwChecksumError
    else if st = b.stNotActive then .downloadNotActive
    else .unexpectedStatus

/-- The classification of the exchange that has just ended (R245; 10_state.md R39). -/
def classifyAttempt (s : State) : AttemptOutcome :=
  if s.tx.ok then classifyStatus s.build (statusByte s.tx.payload) else .transceiveFailed

/-! ## Attempt, probe, back-off, abort -/

/-- The reply of a successful exchange is checked: `BT_STATE <- CHECK`, `BT_LAST_STATUS` (R241, R246). -/
def recordStatus (s : State) : State :=
  s.setBt { s.bt with state := .check, lastStatus := (statusByte s.tx.payload).getD 0xFF }

/-- One attempt of a block: the exchange, and on success the recording of its status (R241). -/
def attempt (params : Bytes) (tmo : Half) (s : State) : State :=
  let s := transceive s.build.opcCont params tmo false (enterBt .send s)
  if s.tx.ok then recordStatus s else s

/-- The wake-up probe (R249). -/
def probe (s : State) : State := transceive Config.opcPing [] s.cfg.tBaseMs true (enterBt .probe s)

/-- `Backoff(r)` in milliseconds, with no wrap (R250). -/
def backoffMs (c : Cfg) (r : Nat) : Nat := if c.backoffLinear then r * c.backoffUnitMs.toNat else c.backoffUnitMs.toNat

/-- The next retry: the counter, then the back-off delay (R241, R248, R250). -/
def backoff (s : State) : State :=
  let s := s.setBt { s.bt with state := .backoff, retry := s.bt.retry + 1 }
  delay (backoffMs s.cfg s.bt.retry.toNat) s

/-- A block is acknowledged: `BT_ELAPSED` and the progress event (R247; 60_exceptions.md R394). -/
def acknowledge (s : State) : State :=
  let e := elapsedAnswer s
  (note (.progress s.bt.ord s.bt.nblocks e) s).setBt { s.bt with elapsed := e }

/-- `Abort(e, idx, k)` of the block in `BT_INDEX` and `BT_ORD` (R241, R251, R252). -/
def abort (e : ErrCode) (s : State) : State :=
  let s := s.setBt { s.bt with state := .aborted, failIndex := s.bt.index, failOrd := s.bt.ord }
  setPayload none (raiseError e s)

/-- How the loop of one block ends. -/
inductive BlockEnd where
  /-- The block was acknowledged; the transfer goes on. -/
  | acknowledged (s : State)
  /-- The transfer was aborted. -/
  | aborted (s : State)

/-- The retry loop of one block, with `left` retries left: `BT_RETRY + left = MAX_RETRIES` throughout, so `left = 0` is the
test `BT_RETRY = MAX_RETRIES` (R241, R248). -/
def blockLoop (params : Bytes) (tmo : Half) : Nat → State → BlockEnd
  | left, s =>
    let s := attempt params tmo s
    match classifyAttempt s with
    | .okay => .acknowledged (acknowledge s)
    | .transceiveFailed =>
      let s := probe s
      if s.tx.ok then
        match left with
        | 0 => .aborted (abort .blockTransferFailed s)
        | left + 1 => blockLoop params tmo left (backoff s)
      else .aborted (abort .linkLost s)
    | .blockChecksumError | .fwChecksumError | .downloadNotActive | .unexpectedStatus =>
      match left with
      | 0 => .aborted (abort .blockTransferFailed s)
      | left + 1 => blockLoop params tmo left (backoff s)

/-- The registers of a block before its first attempt (R241). -/
def startBlock (k : Nat) (idx : Half) (s : State) : State :=
  s.setBt { s.bt with ord := BitVec.ofNat 17 k, index := idx, retry := 0 }

/-- The end of a transfer with every block acknowledged (R241, R247). -/
def completeTransfer (s : State) : State := setPayload none (finishOk (enterBt .complete s))

/-- The blocks `k`, `k + 1`, ... of a transfer, `n` of them (R241, R243). -/
def sendBlocks (tmo : Half) : Nat → Nat → State → Result
  | 0, _, s => .next (completeTransfer s)
  | n + 1, k, s =>
    match block k s with
    | none => .fault .btBufOutOfRange
    | some (idx, params) =>
      match blockLoop params tmo s.cfg.maxRetries.toNat (startBlock k idx s) with
      | .acknowledged s => sendBlocks tmo n (k + 1) s
      | .aborted s => .next s

/-! ## SEND_BUFFER (42_block_transfer.md R241) -/

/-- `Refuse(e)`: only `RES_*` is written (R241). -/
def refuseTransfer (e : ErrCode) (s : State) : State := setPayload none (raiseError e s)

/-- The start check of SEND_BUFFER's operands (R241). -/
def transferOutOfRange (bsize : Half) (len : Nat) (s : State) : Bool :=
  bsize == 0 || decide (s.build.bufCap < len) || exceedsMaxParams s.build (bsize.toNat + 5)
    || decide ((if s.cfg.oneToN then 65535 else 65536) < numBlocks len bsize.toNat)

/-- The `BT_*` registers as a transfer of `n` blocks starts (R241). -/
def startTransfer (bsize : Half) (ext : Bool) (n : Nat) (s : State) : State :=
  s.setBt { s.bt with
    bsize := bsize, ext := ext, nblocks := BitVec.ofNat 17 n, ord := 0, index := 0, retry := 0, lastStatus := 0
    failIndex := 0, failOrd := 0, elapsed := 0 }

/-- The timeout of every attempt of a transfer (R244). -/
def transferTimeout (ext : Bool) (c : Cfg) : Half := if ext then c.tExtMs else c.tBaseMs

/-- The body of SEND_BUFFER (R241). -/
def sendBufferBody (ext : Bool) (bsize : Half) (data : Bytes) (s : State) : Result :=
  if s.linkOpen then
    if transferOutOfRange bsize data.length s then .next (refuseTransfer .outOfRangeParameter s)
    else
      match loadBtBuf data s with
      | none => .fault .btBufOutOfRange
      | some s =>
        let n := numBlocks data.length bsize.toNat
        sendBlocks (transferTimeout ext s.cfg) n 1 (startTransfer bsize ext n s)
  else .next (refuseTransfer .channelError s)

/-- SEND_BUFFER (42_block_transfer.md R241). -/
def execSendBuffer (ext : Bool) (bsize : Half) (data : Bytes) (s : State) : Result :=
  runCommand (sendBufferBody ext bsize data) s

end Sys2Proof.Machine
end

