-- ==== Sys2Proof/Machine/Control.lean ====
section
/-! DEFINITION. The control commands: NOP, SESSION_START, SESSION_END, CFG_WRITE, CFG_READ, STATUS_READ, and the illegal command
words (43_control.md). -/

namespace Sys2Proof.Machine

/-- NOP (43_control.md R281). -/
def execNop (s : State) : Result := .next (command finishOk s)

/-- Closes the link where it is open (R282, R283). -/
def closeIfOpen (s : State) : State := if s.linkOpen then closeLink s else s

/-- The end of SESSION_START, by the result of `Open` in `LINK_OPEN` (R282). -/
def finishOpen (s : State) : State :=
  s.setRes { s.res with ok := s.linkOpen, err := if s.linkOpen then .noErr else .channelError }

/-- The body of SESSION_START (R282). -/
def sessionStartBody (tp : Bytes) (s : State) : State :=
  let s := openLink tp ((closeIfOpen s).setSavedParams (some tp))
  finishOpen (enterTx .idle (s.setToggle false))

/-- SESSION_START (43_control.md R282). -/
def execSessionStart (tp : Bytes) (s : State) : Result := .next (command (sessionStartBody tp) s)

/-- The body of SESSION_END (R283). -/
def sessionEndBody (s : State) : State :=
  finishOk (((closeIfOpen s).setLinkOpen false).setSavedParams none)

/-- SESSION_END (43_control.md R283). -/
def execSessionEnd (s : State) : Result := .next (command sessionEndBody s)

/-- The body of CFG_WRITE (R284). -/
def cfgWriteBody (addr : Byte) (value : Word) (s : State) : State :=
  match writeRegister addr value s.cfg with
  | some c => finishOk (s.setCfg c)
  | none => raiseError .illegalCommand s

/-- CFG_WRITE (43_control.md R284). -/
def execCfgWrite (addr : Byte) (value : Word) (s : State) : Result := .next (command (cfgWriteBody addr value) s)

/-- The body of CFG_READ: the register as it was when the command began (R285). -/
def cfgReadBody (addr : Byte) (s : State) : State :=
  match readRegister addr s with
  | some v => finishOk (setValue v s)
  | none => raiseError .illegalCommand s

/-- CFG_READ (43_control.md R285). -/
def execCfgRead (addr : Byte) (s : State) : Result := .next (command (cfgReadBody addr) s)

/-- The body of STATUS_READ: `STATUS` as it was when the command began (R286; 10_state.md R50). -/
def statusReadBody (s : State) : State := finishOk (setValue (statusWord s) s)

/-- STATUS_READ (43_control.md R286). -/
def execStatusRead (s : State) : Result := .next (command statusReadBody s)

/-- An illegal command word: no operand is read and only `RES_OK` and `RES_ERR` are written (R287). -/
def execIllegal (s : State) : Result := .next (command (raiseError .illegalCommand) s)

end Sys2Proof.Machine
end

