-- ==== Sys2Proof/Machine/WireCommands.lean ====
section
/-! DEFINITION. The wire-command wrappers (44_wire_commands.md): each is a HOST macro, a range check and then one TRANSCEIVE
with the opcode and the parameter layout of its row of the build's opcode table (R310, R311). -/

namespace Sys2Proof.Machine

/-- The wrapper's result from the response of its TRANSCEIVE (R311). -/
def takeHostResult (s : State) : State := s.setHostRes (some ⟨s.res.ok, s.res.err, s.res.payload⟩)

/-- A wrapper whose operands failed its range check: OUT_OF_RANGE_PARAMETER, no command issued (R311). -/
def wrapperOutOfRange (s : State) : State := s.setHostRes (some ⟨false, .outOfRangeParameter, none⟩)

/-- The wrapper template once its operands are in range: TRANSCEIVE, or TRANSCEIVE.I, and its result (R311). -/
def wrapper (ign : Bool) (opc : Byte) (params : Bytes) (t : Half) (s : State) : Result :=
  .next (takeHostResult (command (transceiveBody opc params t ign) s))

/-- The wrapper template with a range check (R311). -/
def checkedWrapper (inRange : Bool) (ign : Bool) (opc : Byte) (params : Bytes) (t : Half) (s : State) : Result :=
  if inRange then wrapper ign opc params t s else .next (wrapperOutOfRange s)

/-- The wrapper of a row of the opcode table, with the operands `args` (R310, R311). -/
def tableWrapper (inRange : Bool) (ign : Bool) (row : WireCommand) (args : List Half) (t : Half) (s : State) : Result :=
  checkedWrapper inRange ign row.opcode (paramBytes row.params args) t s

/-- PING (R312). -/
def execPing (t : Half) (s : State) : Result := wrapper false Config.opcPing [] t s

/-- GET_VERSIONS (R313). -/
def execGetVersions (t : Half) (s : State) : Result := tableWrapper true false s.build.wire.getVersions [] t s

/-- GET_BATTERY_POWER (R314). -/
def execGetBatteryPower (t : Half) (s : State) : Result := tableWrapper true false s.build.wire.getBatteryPower [] t s

/-- The slot is between `SLOT_MIN` and `SLOT_MAX` (R315). -/
def slotInRange (b : Build) (slot : Word) : Bool := decide (slotMin b ≤ slot.toNat ∧ slot.toNat ≤ Config.slotMax)

/-- SELECT_PROGRAM (R315). -/
def execSelectProgram (slot : Word) (t : Half) (s : State) : Result :=
  tableWrapper (slotInRange s.build slot) false s.build.wire.selectProgram [slot.setWidth 16] t s

/-- STOP_ALL_TASKS (R316). -/
def execStopAllTasks (t : Half) (s : State) : Result := tableWrapper true false s.build.wire.stopAllTasks [] t s

/-- DELETE_ALL_TASKS (R317). -/
def execDeleteAllTasks (t : Half) (s : State) : Result := tableWrapper true false s.build.wire.deleteAllTasks [] t s

/-- DELETE_ALL_SUBS (R318). -/
def execDeleteAllSubs (t : Half) (s : State) : Result := tableWrapper true false s.build.wire.deleteAllSubs [] t s

/-- BEGIN_TASK_DOWNLOAD; a size above 65535 cannot be encoded (R319). -/
def execBeginTaskDownload (task : Byte) (size : Word) (t : Half) (s : State) : Result :=
  tableWrapper (decide (size.toNat ≤ 65535)) false s.build.wire.beginTaskDownload [task.setWidth 16, size.setWidth 16] t s

/-- CONTINUE_DOWNLOAD (R320); a payload longer than its 16-bit length field cannot be encoded (log 16, log 17). -/
def execContinueDownload (idx : Half) (data : Bytes) (t : Half) (s : State) : Result :=
  checkedWrapper (decide (data.length ≤ 65535)) false s.build.opcCont (blockHeader idx data) t s

/-- GO_INTO_BOOT_MODE, the reply ignored (R321). -/
def execGoIntoBootMode (t : Half) (s : State) : Result := tableWrapper true true s.build.wire.goIntoBootMode [] t s

/-- BEGIN_FIRMWARE_DOWNLOAD (R322; log 18). -/
def execBeginFirmwareDownload (addr cs : Half) (t : Half) (s : State) : Result :=
  tableWrapper true false s.build.wire.beginFirmwareDownload [addr, cs] t s

/-- UNLOCK_FIRMWARE, the reply ignored (R323). -/
def execUnlockFirmware (t : Half) (s : State) : Result := tableWrapper true true s.build.wire.unlockFirmware [] t s

/-- REMOTE, the reply ignored (R324). -/
def execRemote (msg : Half) (t : Half) (s : State) : Result :=
  tableWrapper true true ⟨s.build.opcRemote, s.build.wire.remoteParams⟩ [msg] t s

/-- PLAY_TONE (R325). -/
def execPlayTone (freq dur : Word) (t : Half) (s : State) : Result :=
  tableWrapper (decide (freq.toNat ≤ 65535 ∧ dur.toNat ≤ 255)) false s.build.wire.playTone
    [freq.setWidth 16, dur.setWidth 16] t s

/-- PLAY_SYSTEM_SOUND (R326, R328). -/
def execPlaySystemSound (sound : Word) (t : Half) (s : State) : Result :=
  tableWrapper (decide (sound.toNat ≤ s.build.soundMax.toNat)) false s.build.wire.playSystemSound [sound.setWidth 16] t s

end Sys2Proof.Machine
end

