-- ==== Sys2Proof/Machine/Dispatch.lean ====
section
/-! DEFINITION. One arm per instruction. -/

namespace Sys2Proof.Machine

def exec (i : Instr) (s : State) : Host.Outcome State Fault Refusal :=
  match i with
  | .nop => Sys2Proof.Machine.execNop s
  | .encode opc params => Sys2Proof.Machine.execEncode opc params s
  | .decode quiet raw => Sys2Proof.Machine.execDecode quiet raw s
  | .transceive ign opc params tmo => Sys2Proof.Machine.execTransceive ign opc params tmo s
  | .sendBuffer ext bsize data => Sys2Proof.Machine.execSendBuffer ext bsize data s
  | .sessionStart tp => Sys2Proof.Machine.execSessionStart tp s
  | .sessionEnd => Sys2Proof.Machine.execSessionEnd s
  | .cfgWrite addr value => Sys2Proof.Machine.execCfgWrite addr value s
  | .cfgRead addr => Sys2Proof.Machine.execCfgRead addr s
  | .statusRead => Sys2Proof.Machine.execStatusRead s
  | .ping t => Sys2Proof.Machine.execPing t s
  | .getVersions t => Sys2Proof.Machine.execGetVersions t s
  | .getBatteryPower t => Sys2Proof.Machine.execGetBatteryPower t s
  | .selectProgram slot t => Sys2Proof.Machine.execSelectProgram slot t s
  | .stopAllTasks t => Sys2Proof.Machine.execStopAllTasks t s
  | .deleteAllTasks t => Sys2Proof.Machine.execDeleteAllTasks t s
  | .deleteAllSubs t => Sys2Proof.Machine.execDeleteAllSubs t s
  | .beginTaskDownload task size t => Sys2Proof.Machine.execBeginTaskDownload task size t s
  | .continueDownload idx data t => Sys2Proof.Machine.execContinueDownload idx data t s
  | .goIntoBootMode t => Sys2Proof.Machine.execGoIntoBootMode t s
  | .beginFirmwareDownload addr cs t => Sys2Proof.Machine.execBeginFirmwareDownload addr cs t s
  | .unlockFirmware t => Sys2Proof.Machine.execUnlockFirmware t s
  | .remote msg t => Sys2Proof.Machine.execRemote msg t s
  | .playTone freq dur t => Sys2Proof.Machine.execPlayTone freq dur t s
  | .playSystemSound sound t => Sys2Proof.Machine.execPlaySystemSound sound t s

end Sys2Proof.Machine
end

