-- ==== Sys2Proof/Machine/Port.lean ====
section
/-! DEFINITION. What surrounds a command: reading the request that the HOST presents (43_control.md R280; 30_encoding.md R121),
the LINK that may never answer (60_exceptions.md R391) and the reset input (70_reset_and_hazards.md R402). -/

namespace Sys2Proof.Machine

/-- What a request asks for. -/
inductive Fetched where
  /-- A command or a wrapper call. -/
  | run (i : Instr)
  /-- An illegal command word (43_control.md R287). -/
  | illegal
  /-- No command and no wrapper call. -/
  | refused (r : Refusal)
  deriving DecidableEq, Repr

/-- Reads a request: one instruction with exactly its operands, or an illegal command word, whose operands are not read
(43_control.md R280, R287; log 4). -/
def readRequest (r : Request) : Fetched :=
  match decode r.port r.bytes with
  | .instr i [] => .run i
  | .instr _ (_ :: _) => .refused .malformedRequest
  | .illegal => .illegal
  | .unknown => .refused (.unknownWrapper (r.bytes.headD 0))
  | .incomplete => .refused .malformedRequest

/-- The events between two states of one run. -/
def newEvents (before after : State) : List Event := after.trace.drop before.trace.length

/-- A call that the LINK answers; `Close` always completes (60_exceptions.md R391). -/
def isLinkCall : Event → Bool
  | .opened _ _ => true
  | .wrote _ _ => true
  | .received _ _ => true
  | .closed => false
  | .delayed _ => false
  | .progress _ _ _ => false
  | .diag _ => false
  | .response _ => false

/-- How many of some events are calls that the LINK answers. -/
def linkCalls (events : List Event) : Nat := (events.filter isLinkCall).length

/-- One of these events is the call that the LINK never answers (R391; log 12). -/
def hangsAmong (events : List Event) (s : State) : Bool :=
  match s.hangIn with
  | none => false
  | some n => decide (n < linkCalls events)

/-- The LINK has answered these events. -/
def spendCalls (events : List Event) (s : State) : State :=
  s.setHangIn (s.hangIn.map fun n => n - linkCalls events)

/-- The LINK and the observer after these events, the CORE's registers as they were. -/
def replay (events : List Event) (s : State) : State := events.foldl (fun s e => note e s) s

/-- A reset during a command, after `n` of its events: the command is abandoned, cut off at an event boundary and without its
response; after its last event the reset finds the CORE IDLE again (70_reset_and_hazards.md R402; log 11). -/
def cutByReset (n : Nat) (events : List Event) (before after : State) : State :=
  if n < events.length then resetCore (spendCalls (events.take n) (replay (events.take n) before))
  else resetCore (spendCalls events after)

/-- What becomes of a command that would take `before` to `after` if the LINK answered every call and no reset came. -/
def settle (before after : State) : Result :=
  let events := newEvents before after
  match before.resetInput with
  | .duringCommand n =>
    if hangsAmong (events.take n) before then .fault .linkNeverAnswers else .next (cutByReset n events before after)
  | .notAsserted | .betweenCommands =>
    if hangsAmong events before then .fault .linkNeverAnswers else .next (spendCalls events after)

/-- `settle` after a command that completes. -/
def settleResult (before : State) : Result → Result
  | .next after => settle before after
  | .fault r => .fault r
  | .refused r => .refused r

/-- The request of a table word (`tableRequest`), or its bytes at the command port where it is no instruction. -/
def requestOfWord (nbits w : Nat) : Request :=
  match tableRequest nbits w with
  | some (port, _, bytes) => ⟨port, bytes⟩
  | none => ⟨.command, tableBytes nbits w⟩

end Sys2Proof.Machine
end

