-- ==== Sys2Proof/Machine/Step.lean ====
section
/-! DEFINITION. One step: the CORE takes the next request and executes it to completion (43_control.md R280; log 10). -/

namespace Sys2Proof.Machine

/-- One step. A reset between commands comes first; a CORE that is BUSY takes nothing; an IDLE one with no request waits
(43_control.md R280; 60_exceptions.md R378; 70_reset_and_hazards.md R402, R403). -/
def step (s : State) : Host.Outcome State Fault Refusal :=
  match s.resetInput with
  | .betweenCommands => .next (resetCore s)
  | .notAsserted | .duringCommand _ =>
    match s.cmdState, s.pending with
    | .busy, _ => .next s
    | .idle, [] => .next s
    | .idle, r :: later =>
      match readRequest r with
      | .run i => settleResult (s.setPending later) (exec i (s.setPending later))
      | .illegal => settleResult (s.setPending later) (execIllegal (s.setPending later))
      | .refused e => .refused e

/-- The state in which the next step takes the instruction of a table word: the HOST has presented it as the next request, the
CORE is IDLE, the LINK answers and no reset is asserted (log 20). -/
def State.withFetchWord (s : State) (nbits w : Nat) : State :=
  (((s.setPending (requestOfWord nbits w :: s.pending)).setCmdState .idle).setResetInput .notAsserted).setHangIn none

end Sys2Proof.Machine
end

