-- ==== Sys2Proof/Machine/HostPrograms.lean ====
section
/-! DEFINITION. The HOST's download programs (45_host_sequences.md): outside the CORE (00_scope.md R5), written over `exec` as
R342 and R349 write them over the CORE's commands and the wrappers (log 21). -/

namespace Sys2Proof.Machine

/-- The orchestrator's states (R340). -/
inductive Stage where
  | idle
  | connecting
  | preparing
  | transferring
  | finalizing
  | complete
  | aborted
  deriving DecidableEq, Repr

/-- The step names of R353. -/
inductive StepName where
  | ping
  | enterBootMode
  | beginFirmwareDownload
  | transfer
  | unlockFirmware
  | selectProgram
  | stopAllTasks
  | deleteAllTasks
  | deleteAllSubs
  | beginTaskDownload
  deriving DecidableEq, Repr

/-- A stage report: stage, step name, success (R353). -/
structure StageReport where
  stage : Stage
  step : StepName
  ok : Bool
  deriving DecidableEq, Repr

/-- The DownloadStatus values (44_wire_commands.md R327). -/
inductive DownloadStatus where
  | okay
  | notEnoughMemory
  | illegalNumber
  | blockChecksumError
  | fwChecksumError
  | downloadNotActive
  deriving DecidableEq, Repr

/-- The status byte of a DownloadStatus value (44_wire_commands.md R327). -/
def DownloadStatus.byte (b : Build) : DownloadStatus → Byte
  | .okay => b.stOkay
  | .notEnoughMemory => b.stNotEnoughMemory
  | .illegalNumber => b.stIllegalNumber
  | .blockChecksumError => b.stBlockCksum
  | .fwChecksumError => b.stFwCksum
  | .downloadNotActive => b.stNotActive

/-- The block that a transfer aborted on: `BT_FAIL_INDEX` and `BT_FAIL_ORD` as CFG_READ gave them (R353). -/
structure FailedBlock where
  index : Word
  ord : Word
  deriving DecidableEq, Repr

/-- An error with what is reported beside it. -/
structure HostError where
  err : ErrCode
  /-- The status byte of UNEXPECTED_STATUS (R346; on the firmware path the model's choice, log 21). -/
  detail : Option Byte := none
  /-- What that byte means, where it means something (R346). -/
  status : Option DownloadStatus := none
  /-- The failed block of a block-transfer abort (R353). -/
  failed : Option FailedBlock := none
  deriving DecidableEq, Repr

/-- A running program: the CORE and its LINK, the stage, the error it aborted with, the reports so far. -/
structure HostRun where
  core : State
  stage : Stage
  error : Option HostError
  reports : List StageReport
  deriving DecidableEq, Repr

/-- A program goes on, or the machine under it stopped. -/
abbrev HostOutcome := Host.Outcome HostRun Fault Refusal

/-- The program as its first stage begins (R340). -/
def HostRun.start (s : State) : HostRun := ⟨s, .connecting, none, []⟩

/-- The next stage begins (R340). -/
def HostRun.enter (stage : Stage) (h : HostRun) : HostOutcome := .next { h with stage := stage }

/-- `Aborted(e)` (R340). -/
def HostRun.abort (e : HostError) (h : HostRun) : HostRun := { h with stage := .aborted, error := some e }

/-- Goes on with a program that has not stopped. -/
def andThen (r : HostOutcome) (f : HostRun → HostOutcome) : HostOutcome :=
  match r with
  | .next h => f h
  | .fault e => .fault e
  | .refused e => .refused e

/-- The next step, unless the program has aborted: no step is retried and none follows a failed one (R340). -/
def thenDo (r : HostOutcome) (f : HostRun → HostOutcome) : HostOutcome :=
  andThen r fun h => if h.stage = .aborted then .next h else f h

/-- The program after its CORE has run a command. -/
def HostRun.onCore (h : HostRun) : Result → HostOutcome
  | .next t => .next { h with core := t }
  | .fault e => .fault e
  | .refused e => .refused e

/-- Runs one command of the CORE or one wrapper, reporting nothing. -/
def HostRun.run (i : Instr) (h : HostRun) : HostOutcome := h.onCore (exec i h.core)

/-- The end of a step, by a verdict on the state it left, no error or the error to abort with: its report (R353), and the
abort (R340). -/
def HostRun.conclude (name : StepName) (verdict : State → Option HostError) (h : HostRun) : HostRun :=
  let h := { h with reports := h.reports ++ [⟨h.stage, name, (verdict h.core).isNone⟩] }
  match verdict h.core with
  | none => h
  | some e => h.abort e

/-- Runs an instruction until its wrapper succeeds, `n` times at most (R343, R344). -/
def tryUpTo (i : Instr) : Nat → State → Result
  | 0, s => .next s
  | n + 1, s =>
    match exec i s with
    | .next t =>
      match t.hostRes with
      | some ⟨false, _, _⟩ => tryUpTo i n t
      | _ => .next t
    | .fault e => .fault e
    | .refused e => .refused e

/-- The verdict on a CORE command: `RES_OK`, or its error. -/
def commandVerdict (t : State) : Option HostError := if t.res.ok then none else some { err := t.res.err }

/-- The verdict on a wrapper: its result, or its error (44_wire_commands.md R311). -/
def wrapperVerdict (t : State) : Option HostError :=
  match t.hostRes with
  | some ⟨false, e, _⟩ => some { err := e }
  | _ => none

/-- The status byte of a wrapper's reply, `RES_PAYLOAD[1]`. -/
def replyStatus (t : State) : Option Byte :=
  match t.hostRes with
  | some ⟨_, _, some (_ :: st :: _)⟩ => some st
  | _ => none

/-- Which of some DownloadStatus values a status byte is; of two equal ones the first. -/
def statusAmong (b : Build) (values : List DownloadStatus) (st : Byte) : Option DownloadStatus :=
  values.find? fun v => v.byte b == st

/-- The verdict on a begin-download wrapper whose reply bears one of the given DownloadStatus values (44_wire_commands.md R327):
a status other than Okay, or none, aborts with UNEXPECTED_STATUS (R345, R346). R346 gives that error the status byte as its
detail on the program path; that it has the detail on the firmware path too is the model's choice (log 21). -/
def statusVerdict (values : List DownloadStatus) (t : State) : Option HostError :=
  match wrapperVerdict t with
  | some e => some e
  | none =>
    let status := (replyStatus t).bind (statusAmong t.build values)
    if status = some .okay then none
    else some { err := .unexpectedStatus, detail := replyStatus t, status := status }

/-- One step of a program that is one command. -/
def hostCommand (name : StepName) (i : Instr) (verdict : State → Option HostError) (h : HostRun) : HostOutcome :=
  andThen (h.run i) fun h => .next (h.conclude name verdict)

/-- One step of a program that is a wrapper tried some times (R343, R344). -/
def hostRetries (name : StepName) (i : Instr) (n : Nat) (h : HostRun) : HostOutcome :=
  andThen (h.onCore (tryUpTo i n h.core)) fun h => .next (h.conclude name wrapperVerdict)

/-- The errors of a block-transfer abort (42_block_transfer.md R251, R252), not those of SEND_BUFFER's start checks. -/
def ErrCode.ofTransferAbort (e : ErrCode) : Bool := e == .blockTransferFailed || e == .linkLost

/-- After a block-transfer abort the HOST reads `BT_FAIL_INDEX` and `BT_FAIL_ORD` by CFG_READ (R353); in this order, the model's
choice (log 21). -/
def readFailedBlock (h : HostRun) : HostOutcome :=
  match h.error with
  | none => .next h
  | some e =>
    if e.err.ofTransferAbort then
      andThen (h.run (.cfgRead 0x14)) fun g =>
        andThen (g.run (.cfgRead 0x15)) fun k =>
          .next { k with error := some { e with failed := some ⟨g.core.res.value, k.core.res.value⟩ } }
    else .next h

/-- The transfer step: SEND_BUFFER, and the failed block of an abort (R342, R349, R353). -/
def transferStep (ext : Bool) (bsize : Half) (data : Bytes) (h : HostRun) : HostOutcome :=
  andThen (hostCommand .transfer (.sendBuffer ext bsize data) commandVerdict h) readFailedBlock

/-- The value that a program writes to `CFG_RETRY`: a retry bound and the configured back-off fields (R347). -/
def retrySetting (bound : Byte) (c : Cfg) : Word :=
  (c.backoffUnitMs ++ 0#7 ++ bit c.backoffLinear ++ bound : BitVec (16 + 7 + 1 + 8))

/-- The CFG_WRITE of the retry bound (R347). It cannot fail, and R353 has no name for it: it leaves no report (log 21). -/
def setRetries (bound : Byte) (h : HostRun) : HostOutcome := h.run (.cfgWrite 0x03 (retrySetting bound h.core.cfg))

/-! ## Firmware download (R341 to R348) -/

/-- `FwChecksum(img)` (R341). -/
def fwChecksum (img : Bytes) : Half := BitVec.ofNat 16 (sumBytes (img.take Config.fwCksumCap))

/-- FIRMWARE_DOWNLOAD (R342), with the host parameters `FW_BLOCK_SIZE` and `FW_EXT`. The begin status 0x00 of R345 is the Okay
of 44_wire_commands.md R327, which all three replies use (log 21). -/
def firmwareDownload (blockSize : Half) (ext : Bool) (img : Bytes) (s : State) : HostOutcome :=
  let t := s.cfg.tBaseMs
  let r := hostRetries .ping (.ping t) Config.pingAttemptsFw (HostRun.start s)
  let r := thenDo r (HostRun.enter .preparing)
  let r := thenDo r (hostRetries .enterBootMode (.goIntoBootMode t) Config.bootAttempts)
  let r := thenDo r
    (hostCommand .beginFirmwareDownload (.beginFirmwareDownload Config.fwStartAddr (fwChecksum img) t) (statusVerdict [.okay]))
  let r := thenDo r (HostRun.enter .transferring)
  let r := thenDo r (setRetries Config.maxRetriesFw)
  let r := thenDo r (transferStep ext blockSize img)
  let r := thenDo r (HostRun.enter .finalizing)
  let r := thenDo r (hostCommand .unlockFirmware (.unlockFirmware t) wrapperVerdict)
  thenDo r (HostRun.enter .complete)

/-! ## Program download (R349 to R352) -/

/-- A chunk of a program image (R349). -/
structure Chunk where
  chunkType : Nat
  chunkLength : Nat
  chunkData : Bytes
  deriving DecidableEq, Repr

/-- A chunk refused before any command (R350, R351). The spec names no step for the check: that it leaves a failed report, and
under the name beginTaskDownload, the step it stands before, is the model's choice (log 21). -/
def refuseChunk (e : ErrCode) (h : HostRun) : HostOutcome := .next (h.conclude .beginTaskDownload fun _ => some { err := e })

/-- One task chunk: BeginTaskDownload with the length of its data, then its bytes (R349, R350); a size outside its wire field is
out of range before any command (R350), and so is a task number, the model's choice (92_eei_decisions.md D45; log 21). The
failed report of such a chunk is the model's choice too (log 21). -/
def downloadTask (t : Half) (task : Nat) (data : Bytes) (h : HostRun) : HostOutcome :=
  if 65535 < data.length ∨ 255 < task then refuseChunk .outOfRangeParameter h
  else
    let r := hostCommand .beginTaskDownload (.beginTaskDownload (BitVec.ofNat 8 task) (BitVec.ofNat 32 data.length) t)
      (statusVerdict [.okay, .notEnoughMemory, .illegalNumber]) h
    thenDo r (transferStep false Config.blockSizeDefault data)

/-- The chunks of an image in order, task chunks numbered from `task` (R349, R350, R351). That a chunk of another type leaves a
failed report, and under which name, is the model's choice (log 21). -/
def downloadChunks (t : Half) : Nat → List Chunk → HostRun → HostOutcome
  | _, [], h => .next h
  | task, c :: cs, h =>
    if c.chunkType ≠ 0 then refuseChunk .unsupportedChunkType h
    else thenDo (downloadTask t task c.chunkData h) (downloadChunks t (task + 1) cs)

/-- PROGRAM_DOWNLOAD (R349). -/
def programDownload (slot : Word) (chunks : List Chunk) (s : State) : HostOutcome :=
  let t := s.cfg.tBaseMs
  let r := HostRun.enter .preparing (HostRun.start s)
  let r := thenDo r (hostCommand .selectProgram (.selectProgram slot t) wrapperVerdict)
  let r := thenDo r (hostCommand .stopAllTasks (.stopAllTasks t) wrapperVerdict)
  let r := thenDo r (hostCommand .deleteAllTasks (.deleteAllTasks t) wrapperVerdict)
  let r := thenDo r (hostCommand .deleteAllSubs (.deleteAllSubs t) wrapperVerdict)
  let r := thenDo r (setRetries Config.maxRetriesProg)
  let r := thenDo r (HostRun.enter .transferring)
  let r := thenDo r (downloadChunks t 0 chunks)
  let r := thenDo r (HostRun.enter .finalizing)
  thenDo r (HostRun.enter .complete)

end Sys2Proof.Machine
end

