-- ==== Sys2Proof/Safety.lean ====
section
/-! DEFINITION. The terms in which the statements speak: the wire format as 30_encoding.md writes it, the states that a command
leaves, the answers of a LINK that behaves, and what every step keeps. Nothing here is part of the machine. -/

namespace Sys2Proof.Machine

/-! ## The wire format, written from the tables of 30_encoding.md -/

/-- The sum of a byte string modulo 256 (00_scope.md R12; 30_encoding.md R117). -/
def byteSum (bs : Bytes) : Byte := bs.foldr (· + ·) 0

/-- Every byte, and after it the byte XOR 0xFF (30_encoding.md R110, R117). -/
def pairs (bs : Bytes) : Bytes := bs.flatMap fun b => [b, b ^^^ 0xFF]

/-- The regular frame (30_encoding.md R110). -/
def regularFrame (op : Byte) (params : Bytes) : Bytes :=
  [0x55, 0xFF, 0x00] ++ pairs (op :: params ++ [byteSum (op :: params)])

/-- The fast frame (30_encoding.md R111). -/
def fastFrame (op : Byte) (params : Bytes) : Bytes := [0xFF, op] ++ params ++ [byteSum (op :: params)]

/-- The frame in the profile in use (30_encoding.md R110, R111). -/
def wireFrame (fast : Bool) (op : Byte) (params : Bytes) : Bytes :=
  if fast then fastFrame op params else regularFrame op params

/-- `opc OR (TOGGLE << 3)` (40_frame_codec.md R161). -/
def sentOpcode (toggle : Bool) (opc : Byte) : Byte := opc ||| (BitVec.ofBool toggle).setWidth 8 <<< 3

/-- At most `MAX_PARAMS` (40_frame_codec.md R166). -/
def withinMaxParams (b : Build) (n : Nat) : Bool :=
  match b.maxParamsOver7 with
  | none => true
  | some extra => decide (n ≤ 7 + extra)

/-- EncodeFrame accepts `n` parameters with the opcode (40_frame_codec.md R163, R166). -/
def framable (b : Build) (opc : Byte) (n : Nat) : Bool :=
  (opc == b.opcCont || opc == b.opcRemote || n == opc.toNat % 8) && withinMaxParams b n

/-- The byte string after the preamble, where `raw` starts with it. -/
def afterPreamble (fast : Bool) (raw : Bytes) : Option Bytes :=
  if fast then (if raw.take 1 = [0xFF] then some (raw.drop 1) else none)
  else if raw.take 3 = [0x55, 0xFF, 0x00] then some (raw.drop 3) else none

/-- The body of a frame that holds the payload `p` (40_frame_codec.md R170, R171). -/
def bodyOf (fast : Bool) (p : Bytes) : Bytes :=
  if fast then p ++ [byteSum p] else pairs (p ++ [byteSum p])

/-- A byte string with bit `k` of its byte `j` inverted. -/
def flipBit (bs : Bytes) (j k : Nat) : Bytes := bs.set j (bs.getD j 0 ^^^ BitVec.twoPow 8 k)

/-! ## The numbers of 10_state.md and 60_exceptions.md -/

/-- The number of an error code (60_exceptions.md R370). -/
def ErrCode.code : ErrCode → Nat
  | .noErr => 0
  | .parameterCountMismatch => 1
  | .encodingError => 2
  | .noEcho => 3
  | .missingPreamble => 4
  | .decodeError => 5
  | .opcodeMismatch => 6
  | .channelError => 7
  | .blockTransferFailed => 8
  | .linkLost => 9
  | .unsupportedChunkType => 10
  | .outOfRangeParameter => 11
  | .unexpectedStatus => 12
  | .illegalCommand => 13

/-- The number of a transceiver state (10_state.md R32). -/
def TxState.code : TxState → Nat
  | .idle => 0
  | .sending => 1
  | .awaitEcho => 2
  | .awaitReply => 3
  | .success => 4
  | .failed => 5
  | .reconnect => 6

/-- The number of a block-engine state (10_state.md R33). -/
def BtState.code : BtState → Nat
  | .idle => 0
  | .send => 1
  | .check => 2
  | .probe => 3
  | .backoff => 4
  | .complete => 5
  | .aborted => 6

/-! ## What a command leaves -/

/-- The command has ended: these events happened, the result registers are `res`, the response is delivered and the port is
ready (43_control.md R280). -/
def State.ended (s : State) (events : List Event) (res : Res) : State :=
  { s with
    cmdState := .idle, res := res
    trace := s.trace ++ events ++ [.response ⟨res.ok, res.err, res.valid, res.payload, res.value⟩] }

/-- The result registers after success, RES_PAYLOAD apart. -/
def Res.succeeded (r : Res) : Res := { r with ok := true, err := .noErr }

/-- The result registers after an error, RES_PAYLOAD apart. -/
def Res.failed (r : Res) (e : ErrCode) : Res := { r with ok := false, err := e }

/-- CFG_READ of the address ends with the value `v` and changes nothing else (43_control.md R285). -/
def State.readsAs (s : State) (addr : Byte) (v : Nat) : Prop :=
  exec (.cfgRead addr) s = .next (s.ended [] { s.res.succeeded with value := BitVec.ofNat 32 v })

/-- CFG_WRITE of the address ends with ILLEGAL_COMMAND, whatever the value, and changes nothing else (10_state.md R56). -/
def State.cannotWrite (s : State) (addr : Byte) : Prop :=
  ∀ v : Word, exec (.cfgWrite addr v) s = .next (s.ended [] (s.res.failed .illegalCommand))

/-- TRANSCEIVE's state after an exchange that wrote its frame and read the answer `a`, leaving `w` and `r` of the LINK's
script: TX_STATE `st` and the outcome `(ok, err, payload)` (41_transceiver.md R201, R214). -/
def State.exchanged (s : State) (ign : Bool) (opc : Byte) (params : Bytes) (tmo : Half) (a : ReadAnswer) (w : List Bool)
    (r : List ReadAnswer) (st : TxState) (ok : Bool) (err : ErrCode) (payload : Option Bytes) : State :=
  let op := sentOpcode s.toggle opc
  let f := wireFrame s.cfg.fast op params
  { s.ended [.wrote f true, .delayed tmo.toNat, .received tmo.toNat a]
      { s.res with ok := ok, err := err, payload := payload } with
    toggle := !s.toggle
    link := { s.link with writes := w, reads := r }
    tx := {
      state := st, frame := f, opcode := op, timeout := tmo, ignore := ign, rxBuf := a.bytes, ok := ok, err := err
      payload := payload } }

/-- TRANSCEIVE's state after a reply with the payload `p`, or after an exchange that ignores its reply. -/
def State.replied (s : State) (ign : Bool) (opc : Byte) (params : Bytes) (tmo : Half) (a : ReadAnswer) (w : List Bool)
    (r : List ReadAnswer) (p : Option Bytes) : State :=
  s.exchanged ign opc params tmo a w r .success true .noErr p

/-- A wrapper's result in the HOST (44_wire_commands.md R311). -/
def State.withHostResult (s : State) (ok : Bool) (err : ErrCode) (p : Option Bytes) : State :=
  { s with hostRes := some ⟨ok, err, p⟩ }

/-- The state after a wrapper whose exchange ended with the reply payload `p`, or whose reply is ignored. -/
def State.wrapped (s : State) (ign : Bool) (opc : Byte) (params : Bytes) (tmo : Half) (a : ReadAnswer) (w : List Bool)
    (r : List ReadAnswer) (p : Option Bytes) : State :=
  (s.replied ign opc params tmo a w r p).withHostResult true .noErr p

/-! ## A LINK that behaves -/

/-- The link is open, and the LINK's next answers are a write that succeeds and the read `a` (00_scope.md R13). -/
abbrev State.linkGives (s : State) (a : ReadAnswer) (w : List Bool) (r : List ReadAnswer) : Prop :=
  s.linkOpen = true ∧ s.link.writes = true :: w ∧ s.link.reads = a :: r

/-- The payload of a reply with the data `d` to the opcode as it is sent now (41_transceiver.md R215). -/
def State.replyPayload (s : State) (opc : Byte) (d : Bytes) : Bytes := ~~~(sentOpcode s.toggle opc) :: d

/-- The echo of the frame as it is sent now, then the RCX's reply with the data `d` (30_encoding.md R113; 41_transceiver.md
R215). -/
def State.echoAndReply (s : State) (opc : Byte) (params d : Bytes) : ReadAnswer :=
  let op := sentOpcode s.toggle opc
  ⟨wireFrame s.cfg.fast op params ++ wireFrame s.cfg.fast (~~~op) d, false⟩

/-! ## The block header -/

/-- The block header (30_encoding.md R114). -/
def headerBytes (idx : Nat) (d : Bytes) : Bytes :=
  [BitVec.ofNat 8 idx, BitVec.ofNat 8 (idx / 256), BitVec.ofNat 8 d.length, BitVec.ofNat 8 (d.length / 256)]
    ++ d ++ [byteSum d]

/-! ## The wrappers, written from 44_wire_commands.md -/

/-- The parameters that a layout of the opcode table makes of operand values (R310). -/
def layoutBytes (layout : List ParamByte) (operands : List Nat) : Bytes :=
  layout.map fun
    | .fixed b => b
    | .low k => BitVec.ofNat 8 (operands.getD k 0)
    | .high k => BitVec.ofNat 8 (operands.getD k 0 / 256)

/-- What a wrapper is: its range check, and the TRANSCEIVE it issues, with ignoreReply or without (R311). -/
structure WireForm where
  inRange : Bool
  ign : Bool
  opcode : Byte
  params : Bytes
  timeout : Half
  deriving DecidableEq, Repr

/-- The wrapper of a row of the table that checks no range. -/
def WireForm.ofRow (ign : Bool) (row : WireCommand) (operands : List Nat) (t : Half) : WireForm :=
  ⟨true, ign, row.opcode, layoutBytes row.params operands, t⟩

/-- The form of each wrapper, from the build's opcode table (R310 to R326). -/
def wireForm (b : Build) : Instr → Option WireForm
  | .nop | .encode _ _ | .decode _ _ | .transceive _ _ _ _ | .sendBuffer _ _ _ | .sessionStart _ | .sessionEnd
  | .cfgWrite _ _ | .cfgRead _ | .statusRead => none
  | .ping t => some ⟨true, false, 0x10, [], t⟩
  | .getVersions t => some (.ofRow false b.wire.getVersions [] t)
  | .getBatteryPower t => some (.ofRow false b.wire.getBatteryPower [] t)
  | .selectProgram slot t => some { WireForm.ofRow false b.wire.selectProgram [slot.toNat] t with
      inRange := decide ((if b.slotMinIsOne then 1 else 0) ≤ slot.toNat ∧ slot.toNat ≤ 5) }
  | .stopAllTasks t => some (.ofRow false b.wire.stopAllTasks [] t)
  | .deleteAllTasks t => some (.ofRow false b.wire.deleteAllTasks [] t)
  | .deleteAllSubs t => some (.ofRow false b.wire.deleteAllSubs [] t)
  | .beginTaskDownload task size t => some { WireForm.ofRow false b.wire.beginTaskDownload [task.toNat, size.toNat] t with
      inRange := decide (size.toNat ≤ 65535) }
  | .continueDownload idx data t => some ⟨decide (data.length ≤ 65535), false, b.opcCont, headerBytes idx.toNat data, t⟩
  | .goIntoBootMode t => some (.ofRow true b.wire.goIntoBootMode [] t)
  | .beginFirmwareDownload addr cs t => some (.ofRow false b.wire.beginFirmwareDownload [addr.toNat, cs.toNat] t)
  | .unlockFirmware t => some (.ofRow true b.wire.unlockFirmware [] t)
  | .remote msg t => some (.ofRow true ⟨b.opcRemote, b.wire.remoteParams⟩ [msg.toNat] t)
  | .playTone freq dur t => some { WireForm.ofRow false b.wire.playTone [freq.toNat, dur.toNat] t with
      inRange := decide (freq.toNat ≤ 65535 ∧ dur.toNat ≤ 255) }
  | .playSystemSound sound t => some { WireForm.ofRow false b.wire.playSystemSound [sound.toNat] t with
      inRange := decide (sound.toNat ≤ b.soundMax.toNat) }

/-- The frame of a wrapper can be encoded: its row is the default table's, where the count of every regular opcode agrees, or
EncodeFrame accepts it (40_frame_codec.md R163, R166). -/
abbrev WireForm.sendable (f : WireForm) (b : Build) : Prop :=
  (b.wire = Config.wireTable ∧ f.params.length ≤ 7) ∨ framable b f.opcode f.params.length = true

/-! ## The blocks of a transfer, written from 42_block_transfer.md -/

/-- `ceil(L / B)` blocks (R242). -/
def blockCount (bsize : Half) (data : Bytes) : Nat := (data.length + bsize.toNat - 1) / bsize.toNat

/-- The payload of the block after the first `j` blocks (R243). -/
def blockData (bsize : Half) (data : Bytes) (j : Nat) : Bytes := (data.drop (j * bsize.toNat)).take bsize.toNat

/-- The wire index of block `k` of `n` (R243). -/
def wireIndex (oneToN : Bool) (n k : Nat) : Nat := if oneToN = false ∧ k = n then 0 else k

/-- The parameters of every block, in the order they are sent (R243, R244). -/
def blockList (oneToN : Bool) (bsize : Half) (data : Bytes) : List Bytes :=
  let n := blockCount bsize data
  (List.range n).map fun j => headerBytes (wireIndex oneToN n (j + 1)) (blockData bsize data j)

/-- SEND_BUFFER passes its start checks (R241). -/
abbrev State.transferable (s : State) (bsize : Half) (data : Bytes) : Prop :=
  s.linkOpen = true ∧ bsize ≠ 0 ∧ data.length ≤ s.build.bufCap ∧ withinMaxParams s.build (bsize.toNat + 5) = true ∧
    blockCount bsize data ≤ (if s.cfg.oneToN then 65535 else 65536)

/-- What the LINK returns to an attempt that carries the parameters `params` with the toggle at `tg`: the echo, and a reply with
the data `d` (30_encoding.md R113; 41_transceiver.md R215). -/
def State.attemptAnswer (s : State) (tg : Bool) (params d : Bytes) : ReadAnswer :=
  let op := sentOpcode tg s.build.opcCont
  ⟨wireFrame s.cfg.fast op params ++ wireFrame s.cfg.fast (~~~op) d, false⟩

/-- The answers to some attempts one after another, each its parameters and its reply's data, the toggle alternating from `tg`
(40_frame_codec.md R162). -/
def State.attemptAnswers (s : State) : Bool → List (Bytes × Bytes) → List ReadAnswer
  | _, [] => []
  | tg, (params, d) :: as => s.attemptAnswer tg params d :: s.attemptAnswers (!tg) as

/-- The events of such an attempt (41_transceiver.md R202). -/
def State.attemptEvents (s : State) (tmo : Nat) (tg : Bool) (params d : Bytes) : List Event :=
  [.wrote (wireFrame s.cfg.fast (sentOpcode tg s.build.opcCont) params) true, .delayed tmo,
    .received tmo (s.attemptAnswer tg params d)]

/-- The events of blocks `k`, `k + 1`, ... of `n`, each acknowledged at its first attempt, with the elapsed times `es`: after
every acknowledgement its progress event, and no other delay (42_block_transfer.md R241, R247). -/
def State.ackedEvents (s : State) (tmo : Nat) (n : BlockOrdinal) : Nat → Bool → List Word → List Bytes → List Event
  | k, tg, e :: es, params :: ps =>
    s.attemptEvents tmo tg params [s.build.stOkay] ++
      .progress (BitVec.ofNat 17 k) n e :: s.ackedEvents tmo n (k + 1) (!tg) es ps
  | _, _, _, _ => []

/-- The back-off before retry number `r` of a block (42_block_transfer.md R250). -/
def State.backoffDelay (s : State) (r : Nat) : Nat :=
  if s.cfg.backoffLinear then r * s.cfg.backoffUnitMs.toNat else s.cfg.backoffUnitMs.toNat

/-- The events of the attempts of one block after `r` retries of it, each answered with the next reply data of a list: the
back-off before each retry and at no other place (42_block_transfer.md R248, R250). -/
def State.triedEvents (s : State) (tmo : Nat) (params : Bytes) : Nat → Bool → List Bytes → List Event
  | _, _, [] => []
  | _, tg, [d] => s.attemptEvents tmo tg params d
  | r, tg, d :: ds =>
    s.attemptEvents tmo tg params d ++ .delayed (s.backoffDelay (r + 1)) :: s.triedEvents tmo params (r + 1) (!tg) ds

/-- The frames written by some events, oldest first. -/
def framesWritten : List Event → List Bytes
  | [] => []
  | .wrote f _ :: es => f :: framesWritten es
  | _ :: es => framesWritten es

/-- The events that `t` has and `s` has not, where `t` is later in one run. -/
def State.eventsSince (t s : State) : List Event := t.trace.drop s.trace.length

/-- An event that is no response. -/
def Event.isResponse : Event → Bool
  | .response _ => true
  | .opened _ _ | .closed | .wrote _ _ | .delayed _ | .received _ _ | .progress _ _ _ | .diag _ => false

/-- The progress events among some events, oldest first. -/
def progressOf : List Event → List (BlockOrdinal × BlockOrdinal × Word)
  | [] => []
  | .progress k n e :: es => (k, n, e) :: progressOf es
  | _ :: es => progressOf es

/-- Some elapsed times, none smaller than the one before, the first none smaller than `low` (60_exceptions.md R394). -/
def risingFrom : Word → List Word → Bool
  | _, [] => true
  | low, e :: es => decide (low ≤ e) && risingFrom e es

/-! ## Reset -/

/-- The CORE's registers hold the values of the table of 70_reset_and_hazards.md R400, and the register map shows them, every
reserved bit 0. -/
def State.atReset (s : State) : Prop :=
  s.cmdState = .idle ∧ s.toggle = false ∧ s.linkOpen = false ∧ s.savedParams = none ∧
  s.tx = ⟨.idle, [], 0, 0, false, [], false, .noErr, none⟩ ∧
  s.bt = ⟨.idle, 0, 0, false, 0, 0, 0, 0, 0x00, 0, 0, 0⟩ ∧
  (∀ a, s.mem.readByte a = none) ∧
  s.res = ⟨false, .noErr, false, none, 0⟩ ∧
  s.cfg = ⟨false, true, false, 10, true, 100, s.build.tBaseMs, s.build.tExtMs, false⟩ ∧
  (∀ a ∈ ([0x00, 0x02, 0x06, 0x10, 0x11, 0x12, 0x13, 0x14, 0x15, 0x16] : List Byte), readRegister a s = some 0) ∧
  readRegister 0x01 s = some 1 ∧ readRegister 0x03 s = some 0x0064010A ∧
  readRegister 0x04 s = some (BitVec.ofNat 32 s.build.tBaseMs.toNat) ∧
  readRegister 0x05 s = some (BitVec.ofNat 32 s.build.tExtMs.toNat)

/-! ## What every step keeps -/

/-- The codes an exchange ends with (41_transceiver.md R214; 60_exceptions.md R370). -/
def ErrCode.ofExchange : ErrCode → Bool
  | .noErr | .parameterCountMismatch | .encodingError | .noEcho | .missingPreamble | .decodeError | .opcodeMismatch
  | .channelError => true
  | .blockTransferFailed | .linkLost | .unsupportedChunkType | .outOfRangeParameter | .unexpectedStatus
  | .illegalCommand => false

/-- The codes that no command of the CORE returns (60_exceptions.md R370). -/
def ErrCode.hostOnly : ErrCode → Bool
  | .unsupportedChunkType | .unexpectedStatus => true
  | .noErr | .parameterCountMismatch | .encodingError | .noEcho | .missingPreamble | .decodeError | .opcodeMismatch
  | .channelError | .blockTransferFailed | .linkLost | .outOfRangeParameter | .illegalCommand => false

/-- What holds between two commands of the CORE, in every state that the machine reaches. -/
structure State.Inv (s : State) : Prop where
  /-- The port is ready (43_control.md R280). -/
  ready : s.cmdState = .idle
  /-- The memory is in its canonical form. -/
  memWf : s.mem.wf = true
  /-- `BT_BUF` holds exactly the offsets below `BT_LEN` (20_memory.md R91). -/
  buffer : s.mem.map Prod.fst = List.range s.bt.len
  /-- `BT_BUF` fits its capacity (10_state.md R37; 20_memory.md R92). -/
  capacity : s.bt.len ≤ s.build.bufCap
  /-- An open link has saved parameters (10_state.md R35). -/
  session : s.linkOpen = true → s.savedParams.isSome = true
  /-- No exchange is under way (41_transceiver.md R200). -/
  txRests : s.tx.state = .idle ∨ s.tx.state = .success ∨ s.tx.state = .failed
  /-- No transfer is under way (42_block_transfer.md R240). -/
  btRests : s.bt.state = .idle ∨ s.bt.state = .complete ∨ s.bt.state = .aborted
  /-- SUCCESS is held with TX_OK = 1, FAILED with TX_OK = 0 and an error (41_transceiver.md R201). -/
  txSuccess : s.tx.state = .success → s.tx.ok = true
  txFailed : s.tx.state = .failed → s.tx.ok = false ∧ s.tx.err ≠ .noErr
  /-- TX_ERR is NONE where TX_OK = 1, and TX_PAYLOAD is NULL where TX_OK = 0 (10_state.md R36; 41_transceiver.md R207). -/
  txOk : s.tx.ok = true → s.tx.err = .noErr
  txPayload : s.tx.ok = false → s.tx.payload = none
  /-- TX_ERR is a code of an exchange (60_exceptions.md R370). -/
  txErr : s.tx.err.ofExchange = true
  /-- RES_ERR is NONE where RES_OK = 1 (10_state.md R38). -/
  resOk : s.res.ok = true → s.res.err = .noErr
  /-- RES_ERR is a code that a command of the CORE returns (60_exceptions.md R370). -/
  resErr : s.res.err.hostOnly = false

end Sys2Proof.Machine
end

