-- ==== Sys2Proof/Certificates/Slice0/Obligations.lean ====
section
/-! DEFINITION. The statements for the provers. An equation `exec i s = .next t` says at once that the instruction completes,
what it writes and, by the record `t`, that every other register, every byte of memory and every field of the model's own is as
it was. -/

open Sys2Proof Sys2Proof.Machine

/-! ## Encoding -/

/-- Every instruction with every operand survives encoding and decoding, whatever bytes follow it. -/
def Obligations.DecodeOfEncode : Prop :=
  ∀ (i : Instr) (rest : Bytes), i.wellFormed = true → decode i.port (encode i ++ rest) = .instr i rest

/-- A command that decodes is the encoding of what it decodes to: no bit of it is ignored (30_encoding.md R121 to R123). -/
def Obligations.EncodeOfDecodedCommand : Prop :=
  ∀ (bs rest : Bytes) (i : Instr), decode .command bs = .instr i rest →
    bs = encode i ++ rest ∧ i.wellFormed = true ∧ i.port = .command

/-- The same of a wrapper call, but for bit 3 of its first byte: the identity of an opcode is the byte under the mask 0xF7
(30_encoding.md R115). That the decoder reads past bit 3, and how the operands are laid out, is the model's choice (log 2,
log 5). -/
def Obligations.EncodeOfDecodedWrapper : Prop :=
  ∀ (bs rest : Bytes) (i : Instr), decode .wire bs = .instr i rest →
    i.wellFormed = true ∧ i.port = .wire ∧ ∃ op tail, bs = op :: tail ∧ encode i ++ rest = (op &&& 0xF7) :: tail

/-- R123: which command words are illegal, whatever follows them, that every other word is a command's own first byte, and that
an illegal word changes nothing and ends with ILLEGAL_COMMAND (43_control.md R287). -/
def Obligations.IllegalCommandWord : Prop :=
  ∀ (w : Byte) (bs : Bytes),
    (decode .command (w :: bs) = .illegal ↔
      w.toNat / 32 ≠ 0 ∨ 10 ≤ w.toNat % 16 ∨ (w.toNat / 16 % 2 = 1 ∧ w.toNat % 16 ∉ [2, 3, 4])) ∧
    decode .command (w :: bs) ≠ .unknown ∧
    (∀ i rest, decode .command (w :: bs) = .instr i rest → (encode i).head? = some w) ∧
    ∀ (s : State) (later : List Request), s.cmdState = .idle → s.resetInput = .notAsserted → s.hangIn = none →
      s.pending = ⟨.command, [w]⟩ :: later → decode .command [w] = .illegal →
      step s = .next (({ s with pending := later } : State).ended [] (s.res.failed .illegalCommand))

/-- Some command words and wire opcodes, written out from the tables of 30_encoding.md and 44_wire_commands.md. -/
def Obligations.DecodedWords : Prop :=
  decode .command [0b00000000] = .instr .nop [] ∧
  decode .command [0b00000001, 0x10, 0, 0, 0, 0] = .instr (.encode 0x10 []) [] ∧
  decode .command [0b00010010, 2, 0, 0, 0, 0xEF, 0x10] = .instr (.decode true [0xEF, 0x10]) [] ∧
  decode .command [0b00010011, 0x65, 1, 0, 0, 0, 0x0B, 0x96, 0x00] = .instr (.transceive true 0x65 [0x0B] 150) [] ∧
  decode .command [0b00010100, 0x14, 0x00, 3, 0, 0, 0, 0x01, 0x02, 0x03] = .instr (.sendBuffer true 20 [1, 2, 3]) [] ∧
  decode .command [0b00000111, 0x03, 0x05, 0x01, 0x64, 0x00] = .instr (.cfgWrite 0x03 0x00640105) [] ∧
  decode .command [0b00001010] = .illegal ∧
  decode .wire [0x91, 2, 0, 0, 0, 0x96, 0x00] = .instr (.selectProgram 2 150) [] ∧
  decode .wire [0x11] = .unknown

/-! ## The step -/

/-- When the request at the port is exactly one instruction, the LINK answers and no reset comes, a step takes the request and
is that instruction. -/
def Obligations.StepRunsTheDecodedInstruction : Prop :=
  ∀ (s : State) (r : Request) (later : List Request) (i : Instr),
    s.cmdState = .idle → s.resetInput = .notAsserted → s.hangIn = none → s.pending = r :: later →
    decode r.port r.bytes = .instr i [] → step s = exec i { s with pending := later }

/-- An idle port with nothing presented waits, and a busy one takes nothing (43_control.md R280; 60_exceptions.md R378; that a
busy CORE stands still between steps is the model's, log 10). -/
def Obligations.StepWaits : Prop :=
  ∀ s : State, s.resetInput ≠ .betweenCommands → s.cmdState = .busy ∨ s.pending = [] → step s = .next s

/-- Bytes that are no command and no wrapper call stop the machine by name; that a request is exactly one instruction is the
model's choice (log 1, log 4). -/
def Obligations.StepRefusesNoInstruction : Prop :=
  ∀ (s : State) (r : Request) (later : List Request),
    s.cmdState = .idle → s.resetInput ≠ .betweenCommands → s.pending = r :: later →
    (decode r.port r.bytes = .incomplete → step s = .refused .malformedRequest) ∧
    (∀ i b bs, decode r.port r.bytes = .instr i (b :: bs) → step s = .refused .malformedRequest) ∧
    (∀ op bs, r.bytes = op :: bs → decode r.port r.bytes = .unknown → step s = .refused (.unknownWrapper op))

/-- Reset puts every register into the state of R400, the build-time constants kept, and issues no transport event (R401); the
machine's first state is that state. -/
def Obligations.ResetState : Prop :=
  State.reset.atReset ∧
  ∀ s : State, s.resetInput = .betweenCommands →
    ∃ t, step s = .next t ∧ t.atReset ∧ t.trace = s.trace ∧ t.build = s.build

/-- A reset after `n` events of a command (70_reset_and_hazards.md R402; log 11): the command is abandoned at that event
boundary, its response is not delivered, and the registers are those of R400. After the last event the command is over, and
the reset finds the CORE idle. What a reset between commands leaves of the model's own fields is the model's choice: the
requests (log 20), the LINK's answers to come (log 6), the HOST's last result (log 15) and the LINK's hang (log 12) as they
were, and the reset input released (log 11). -/
def Obligations.ResetDuringCommand : Prop :=
  (∀ (s : State) (r : Request) (later : List Request) (i : Instr) (n : Nat) (t : State),
    s.cmdState = .idle → s.resetInput = .duringCommand n → s.hangIn = none → s.pending = r :: later →
    decode r.port r.bytes = .instr i [] → exec i { s with pending := later } = .next t →
    ∃ u, step s = .next u ∧ u.atReset ∧ u.build = s.build ∧ u.pending = later ∧ u.resetInput = .notAsserted ∧
      u.trace = s.trace ++ (t.eventsSince s).take n ∧
      (n < (t.eventsSince s).length → ∀ e ∈ (t.eventsSince s).take n, e.isResponse = false)) ∧
  (∀ s : State, s.resetInput = .betweenCommands →
    ∃ t, step s = .next t ∧ t.pending = s.pending ∧ t.link = s.link ∧ t.hostRes = s.hostRes ∧ t.hangIn = s.hangIn ∧
      t.resetInput = .notAsserted)

/-- A LINK that never answers its call number `k` from now holds the CORE for ever (60_exceptions.md R391); the fault is the
model's (log 12). Calls before it are answered. -/
def Obligations.LinkThatNeverAnswers : Prop :=
  ∀ (s : State) (r : Request) (later : List Request) (i : Instr) (k : Nat) (t : State),
    s.cmdState = .idle → s.resetInput = .notAsserted → s.hangIn = some k → s.pending = r :: later →
    decode r.port r.bytes = .instr i [] → exec i { s with pending := later } = .next t →
    (k < linkCalls (t.eventsSince s) → step s = .fault .linkNeverAnswers) ∧
    (linkCalls (t.eventsSince s) ≤ k → step s = .next { t with hangIn := some (k - linkCalls (t.eventsSince s)) })

/-! ## Control commands -/

/-- R281. -/
def Obligations.NopCompletes : Prop :=
  encode .nop = [0x00] ∧ decode .command [0x10] = .illegal ∧
  ∀ s : State, exec .nop s = .next (s.ended [] s.res.succeeded)

/-- R282, for either answer of the LINK to `Open`. -/
def Obligations.SessionStartCompletes : Prop :=
  ∀ (s : State) (tp : Bytes) (ok : Bool) (later : List Bool), s.link.opens = ok :: later →
    (encode (.sessionStart tp)).head? = some 0x05 ∧
    exec (.sessionStart tp) s = .next
      { s.ended ((if s.linkOpen then [.closed] else []) ++ [.opened tp ok])
          (if ok then s.res.succeeded else s.res.failed .channelError) with
        linkOpen := ok, savedParams := some tp, toggle := false, tx := { s.tx with state := .idle }
        link := { s.link with opens := later } }

/-- R283. -/
def Obligations.SessionEndCompletes : Prop :=
  encode .sessionEnd = [0x06] ∧
  ∀ s : State,
    exec .sessionEnd s = .next
      { s.ended (if s.linkOpen then [.closed] else []) s.res.succeeded with linkOpen := false, savedParams := none }

/-- R284: the RW fields of the addressed register take their bits of the value; a RO or unmapped address is ILLEGAL_COMMAND. -/
def Obligations.CfgWriteCompletes : Prop :=
  ∀ (s : State) (addr : Byte) (v : Word),
    (encode (.cfgWrite addr v)).take 2 = [0x07, addr] ∧
    exec (.cfgWrite addr v) s = .next (
      match addr.toNat with
      | 0x00 => { s.ended [] s.res.succeeded with cfg := { s.cfg with fast := decide (v.toNat % 2 = 1) } }
      | 0x01 => { s.ended [] s.res.succeeded with cfg := { s.cfg with glitchyEn := decide (v.toNat % 2 = 1) } }
      | 0x02 => { s.ended [] s.res.succeeded with cfg := { s.cfg with resetOnReconnect := decide (v.toNat % 2 = 1) } }
      | 0x03 => { s.ended [] s.res.succeeded with
          cfg := { s.cfg with
            maxRetries := BitVec.ofNat 8 v.toNat, backoffLinear := decide (v.toNat / 2 ^ 8 % 2 = 1)
            backoffUnitMs := BitVec.ofNat 16 (v.toNat / 2 ^ 16) } }
      | 0x04 => { s.ended [] s.res.succeeded with cfg := { s.cfg with tBaseMs := BitVec.ofNat 16 v.toNat } }
      | 0x05 => { s.ended [] s.res.succeeded with cfg := { s.cfg with tExtMs := BitVec.ofNat 16 v.toNat } }
      | 0x06 => { s.ended [] s.res.succeeded with cfg := { s.cfg with oneToN := decide (v.toNat % 2 = 1) } }
      | _ => s.ended [] (s.res.failed .illegalCommand))

/-- CFG_READ of the configuration and constant registers (10_state.md R41 to R49): each field at its place, reserved bits 0. -/
def Obligations.CfgReadsConfiguration : Prop :=
  ∀ s : State,
    s.readsAs 0x00 s.cfg.fast.toNat ∧
    s.readsAs 0x01 s.cfg.glitchyEn.toNat ∧
    s.readsAs 0x02 (s.cfg.resetOnReconnect.toNat + 2 * s.toggle.toNat) ∧
    s.readsAs 0x03 (s.cfg.maxRetries.toNat + 2 ^ 8 * s.cfg.backoffLinear.toNat + 2 ^ 16 * s.cfg.backoffUnitMs.toNat) ∧
    s.readsAs 0x04 s.cfg.tBaseMs.toNat ∧
    s.readsAs 0x05 s.cfg.tExtMs.toNat ∧
    s.readsAs 0x06 s.cfg.oneToN.toNat ∧
    s.readsAs 0x08 (0x10 + 2 ^ 8 * s.build.opcCont.toNat + 2 ^ 16 * s.build.opcRemote.toNat) ∧
    s.readsAs 0x09 (s.build.stOkay.toNat + 2 ^ 8 * s.build.stBlockCksum.toNat + 2 ^ 16 * s.build.stFwCksum.toNat +
      2 ^ 24 * s.build.stNotActive.toNat) ∧
    s.cannotWrite 0x08 ∧ s.cannotWrite 0x09

/-- CFG_READ of the block engine's registers (10_state.md R51 to R55), which are read-only. -/
def Obligations.CfgReadsBlockEngine : Prop :=
  ∀ s : State,
    s.readsAs 0x11 s.bt.ord.toNat ∧
    s.readsAs 0x12 s.bt.nblocks.toNat ∧
    s.readsAs 0x13 (s.bt.index.toNat + 2 ^ 16 * s.bt.retry.toNat + 2 ^ 24 * s.bt.lastStatus.toNat) ∧
    s.readsAs 0x14 s.bt.failIndex.toNat ∧
    s.readsAs 0x15 s.bt.failOrd.toNat ∧
    s.readsAs 0x16 s.bt.elapsed.toNat ∧
    s.cannotWrite 0x11 ∧ s.cannotWrite 0x12 ∧ s.cannotWrite 0x13 ∧ s.cannotWrite 0x14 ∧ s.cannotWrite 0x15 ∧
    s.cannotWrite 0x16

/-- STATUS_READ and CFG_READ 0x10 answer STATUS as the command before left it, each field at its place (10_state.md R50;
43_control.md R286); STATUS is read-only. -/
def Obligations.StatusReads : Prop :=
  ∀ s : State,
    s.readsAs 0x10 (s.tx.state.code + 2 ^ 3 * s.bt.state.code + 2 ^ 6 * s.toggle.toNat + 2 ^ 7 * s.linkOpen.toNat +
      2 ^ 8 * s.res.ok.toNat + 2 ^ 9 * s.res.valid.toNat + 2 ^ 10 * s.tx.ok.toNat + 2 ^ 12 * s.res.err.code +
      2 ^ 16 * s.tx.err.code) ∧
    s.cannotWrite 0x10 ∧ encode .statusRead = [0x09] ∧
    exec .statusRead s = .next (s.ended [] { s.res.succeeded with
      value := BitVec.ofNat 32 (s.tx.state.code + 2 ^ 3 * s.bt.state.code + 2 ^ 6 * s.toggle.toNat +
        2 ^ 7 * s.linkOpen.toNat + 2 ^ 8 * s.res.ok.toNat + 2 ^ 9 * s.res.valid.toNat + 2 ^ 10 * s.tx.ok.toNat +
        2 ^ 12 * s.res.err.code + 2 ^ 16 * s.tx.err.code) })

/-- An unmapped address changes nothing and ends with ILLEGAL_COMMAND, read or written (10_state.md R40, R56). -/
def Obligations.UnmappedAddresses : Prop :=
  ∀ (s : State) (addr : Byte), addr = 0x07 ∨ (0x0A ≤ addr ∧ addr ≤ 0x0F) ∨ 0x17 ≤ addr →
    exec (.cfgRead addr) s = .next (s.ended [] (s.res.failed .illegalCommand)) ∧ s.cannotWrite addr

/-! ## Frame Codec and Toggle-Bit Sequencer -/

/-- R160, R163, R165, R166: ENCODE returns the frame and advances the toggle exactly when the opcode may carry that many
parameters; otherwise it ends with the first check's error and leaves the toggle. -/
def Obligations.EncodeCompletes : Prop :=
  ∀ (s : State) (opc : Byte) (params : Bytes),
    (encode (.encode opc params)).take 2 = [0x01, opc] ∧
    (framable s.build opc params.length = true →
      exec (.encode opc params) s = .next
        { s.ended [] { s.res.succeeded with payload := some (wireFrame s.cfg.fast (sentOpcode s.toggle opc) params) } with
          toggle := !s.toggle }) ∧
    (framable s.build opc params.length = false →
      exec (.encode opc params) s = .next (s.ended [] { s.res.failed
        (if opc ≠ s.build.opcCont ∧ opc ≠ s.build.opcRemote ∧ params.length ≠ opc.toNat % 8 then .parameterCountMismatch
          else .encodingError) with payload := none }))

/-- The tables of R110 and R111, byte by byte, the lengths of R112, and the checksum law of R164. -/
def Obligations.FrameLayout : Prop :=
  ∀ (op : Byte) (ps : Bytes),
    let cs : Byte := BitVec.ofNat 8 ((op.toNat + (ps.map BitVec.toNat).sum) % 256)
    let f := frameOf false op ps
    let g := frameOf true op ps
    f.length = 7 + 2 * ps.length ∧ f.take 5 = [0x55, 0xFF, 0x00, op, op ^^^ 0xFF] ∧
    (∀ j p, ps[j]? = some p → f[5 + 2 * j]? = some p ∧ f[6 + 2 * j]? = some (p ^^^ 0xFF)) ∧
    f[5 + 2 * ps.length]? = some cs ∧ f[6 + 2 * ps.length]? = some (cs ^^^ 0xFF) ∧
    cs.toNat + (cs ^^^ 0xFF).toNat = 0xFF ∧
    g.length = 3 + ps.length ∧ g.take 2 = [0xFF, op] ∧ (∀ j p, ps[j]? = some p → g[2 + j]? = some p) ∧
    g[2 + ps.length]? = some cs

/-- R174: the decoder undoes the encoder in either profile, and in the regular profile a single inverted bit after the preamble
makes the frame invalid. -/
def Obligations.CodecLaw : Prop :=
  ∀ (s : State) (opc : Byte) (params f : Bytes), encodeResult opc params s = .ok f →
    decodeFrame s.cfg.fast f = (true, sentOpcode s.toggle opc :: params) ∧
    (s.cfg.fast = false → ∀ j k, 3 ≤ j → j < f.length → k < 8 → (decodeFrame false (flipBit f j k)).1 = false)

/-- R170 to R173, R175, R176: DECODE is valid exactly on the frame of some payload, which is then its result; on every other
byte string it ends with DECODE_ERROR and the bytes without their preamble, if they had it. Only the diagnostic event is
open, and QUIET suppresses it. -/
def Obligations.DecodeCompletes : Prop :=
  ∀ (s : State) (quiet : Bool) (raw : Bytes),
    (encode (.decode quiet raw)).head? = some (if quiet then 0x12 else 0x02) ∧
    (∀ p, afterPreamble s.cfg.fast raw = some (bodyOf s.cfg.fast p) →
      exec (.decode quiet raw) s = .next (s.ended [] { s.res.succeeded with valid := true, payload := some p })) ∧
    ((∀ p, afterPreamble s.cfg.fast raw ≠ some (bodyOf s.cfg.fast p)) →
      ∃ diag : Bool, (quiet = true → diag = false) ∧
        let p := (afterPreamble s.cfg.fast raw).getD raw
        exec (.decode quiet raw) s = .next (s.ended (if diag then [.diag p] else [])
          { s.res.failed .decodeError with valid := false, payload := some p }))

/-- Every frame that is written inverts the toggle once, whatever becomes of the exchange: with no toggle clear on reconnect, any
instruction but ENCODE and SESSION_START inverts TOGGLE as often as it wrote a frame (40_frame_codec.md R162; 42_block_transfer.md R254; 10_state.md R34). -/
def Obligations.ToggleCountsFrames : Prop :=
  ∀ (s t : State) (i : Instr), exec i s = .next t → s.cfg.resetOnReconnect = false →
    (∀ opc params, i ≠ .encode opc params) → (∀ tp, i ≠ .sessionStart tp) →
    t.toggle = (s.toggle ^^ decide ((framesWritten (t.eventsSince s)).length % 2 = 1))

/-! ## Command Transceiver -/

/-- R215: an exchange whose LINK returns the echo and a well-formed reply succeeds with the reply's payload, in either profile;
in the regular profile also with one arbitrary byte before the echo, where the relaxed match is on. -/
def Obligations.TransceiveRoundTrip : Prop :=
  ∀ (s : State) (opc : Byte) (params d : Bytes) (tmo : Half) (w : List Bool) (r : List ReadAnswer),
    framable s.build opc params.length = true →
    (s.linkGives (s.echoAndReply opc params d) w r →
      exec (.transceive false opc params tmo) s =
        .next (s.replied false opc params tmo (s.echoAndReply opc params d) w r (some (s.replyPayload opc d)))) ∧
    (∀ noise : Byte, s.cfg.fast = false → s.cfg.glitchyEn = true →
      s.linkGives ⟨noise :: (s.echoAndReply opc params d).bytes, false⟩ w r →
      exec (.transceive false opc params tmo) s =
        .next (s.replied false opc params tmo ⟨noise :: (s.echoAndReply opc params d).bytes, false⟩ w r
          (some (s.replyPayload opc d))))

/-- R209: with ignoreReply an exchange whose write succeeds succeeds with payload NULL, whatever the read returns. -/
def Obligations.TransceiveIgnoringReply : Prop :=
  ∀ (s : State) (opc : Byte) (params : Bytes) (tmo : Half) (a : ReadAnswer) (w : List Bool) (r : List ReadAnswer),
    framable s.build opc params.length = true → s.linkGives a w r →
    exec (.transceive true opc params tmo) s = .next (s.replied true opc params tmo a w r none)

/-- R203: a closed link fails the exchange at once with CHANNEL_ERROR: no encode, no toggle change, no transport event. -/
def Obligations.TransceiveOnClosedLink : Prop :=
  ∀ (s : State) (ign : Bool) (opc : Byte) (params : Bytes) (tmo : Half), s.linkOpen = false →
    exec (.transceive ign opc params tmo) s = .next
      { s.ended [] { s.res.failed .channelError with payload := none } with
        tx := { s.tx with
          state := .failed, timeout := tmo, ignore := ign, ok := false, err := .channelError, payload := none } }

/-- R204: a failed encode ends the exchange with its own code, no transport event and the toggle as it was; TX_FRAME and
TX_OPCODE are not written. -/
def Obligations.TransceiveEncodeError : Prop :=
  ∀ (s : State) (ign : Bool) (opc : Byte) (params : Bytes) (tmo : Half),
    s.linkOpen = true → framable s.build opc params.length = false →
    let e : ErrCode :=
      if opc ≠ s.build.opcCont ∧ opc ≠ s.build.opcRemote ∧ params.length ≠ opc.toNat % 8 then .parameterCountMismatch
      else .encodingError
    exec (.transceive ign opc params tmo) s = .next
      { s.ended [] { s.res.failed e with payload := none } with
        tx := { s.tx with state := .failed, timeout := tmo, ignore := ign, ok := false, err := e, payload := none } }

/-- R212 and R211: a failed write makes one reconnect and ends with CHANNEL_ERROR, without a delay or a read, also with
ignoreReply; the toggle has advanced, and the reconnect clears it only where configured. A reconnect without saved parameters
calls no `Open`. -/
def Obligations.TransceiveWriteFails : Prop :=
  ∀ (s : State) (ign : Bool) (opc : Byte) (params : Bytes) (tmo : Half) (w : List Bool),
    s.linkOpen = true → framable s.build opc params.length = true → s.link.writes = false :: w →
    let op := sentOpcode s.toggle opc
    let f := wireFrame s.cfg.fast op params
    let res : Res := { s.res.failed .channelError with payload := none }
    let tx : Tx := { s.tx with
      state := .failed, frame := f, opcode := op, timeout := tmo, ignore := ign, ok := false, err := .channelError
      payload := none }
    (∀ p ok o, s.savedParams = some p → s.link.opens = ok :: o →
      exec (.transceive ign opc params tmo) s = .next
        { s.ended [.wrote f false, .closed, .opened p ok] res with
          toggle := !s.toggle && !s.cfg.resetOnReconnect, linkOpen := ok, tx := tx
          link := { s.link with opens := o, writes := w } }) ∧
    (s.savedParams = none →
      exec (.transceive ign opc params tmo) s = .next
        { s.ended [.wrote f false, .closed] res with
          toggle := !s.toggle && !s.cfg.resetOnReconnect, linkOpen := false, tx := tx
          link := { s.link with writes := w } })

/-- R210 and R211: a read with a channel error makes one reconnect and ends with CHANNEL_ERROR, whatever bytes came back. A
reconnect without saved parameters calls no `Open`. -/
def Obligations.TransceiveChannelError : Prop :=
  ∀ (s : State) (opc : Byte) (params rx : Bytes) (tmo : Half) (w : List Bool) (r : List ReadAnswer),
    framable s.build opc params.length = true → s.linkGives ⟨rx, true⟩ w r →
    let op := sentOpcode s.toggle opc
    let f := wireFrame s.cfg.fast op params
    let events : List Event := [.wrote f true, .delayed tmo.toNat, .received tmo.toNat ⟨rx, true⟩, .closed]
    let res : Res := { s.res.failed .channelError with payload := none }
    let tx : Tx := {
      state := .failed, frame := f, opcode := op, timeout := tmo, ignore := false, rxBuf := rx, ok := false
      err := .channelError, payload := none }
    (∀ p ok o, s.savedParams = some p → s.link.opens = ok :: o →
      exec (.transceive false opc params tmo) s = .next
        { s.ended (events ++ [.opened p ok]) res with
          toggle := !s.toggle && !s.cfg.resetOnReconnect, linkOpen := ok, tx := tx
          link := { s.link with opens := o, writes := w, reads := r } }) ∧
    (s.savedParams = none →
      exec (.transceive false opc params tmo) s = .next
        { s.ended events res with
          toggle := !s.toggle && !s.cfg.resetOnReconnect, linkOpen := false, tx := tx
          link := { s.link with writes := w, reads := r } })

/-- R205: where neither the exact nor the relaxed match holds, the exchange fails with NO_ECHO. -/
def Obligations.TransceiveNoEcho : Prop :=
  ∀ (s : State) (opc : Byte) (params rx : Bytes) (tmo : Half) (w : List Bool) (r : List ReadAnswer),
    framable s.build opc params.length = true → s.linkGives ⟨rx, false⟩ w r →
    ¬wireFrame s.cfg.fast (sentOpcode s.toggle opc) params <+: rx →
    (s.cfg.glitchyEn = true → ¬wireFrame s.cfg.fast (sentOpcode s.toggle opc) params <+: rx.drop 1) →
    exec (.transceive false opc params tmo) s =
      .next (s.exchanged false opc params tmo ⟨rx, false⟩ w r .failed false .noEcho none)

/-- R205 to R208 and R213: the echo, exact or after one byte, is removed whole; the rest must start with the preamble, decode,
and answer the opcode sent. -/
def Obligations.TransceiveReplyChecks : Prop :=
  ∀ (s : State) (opc : Byte) (params rx rem : Bytes) (tmo : Half) (w : List Bool) (r : List ReadAnswer),
    let op := sentOpcode s.toggle opc
    let f := wireFrame s.cfg.fast op params
    framable s.build opc params.length = true → s.linkGives ⟨rx, false⟩ w r →
    rx = f ++ rem ∨ (s.cfg.glitchyEn = true ∧ ¬f <+: rx ∧ rx.drop 1 = f ++ rem) →
    (afterPreamble s.cfg.fast rem = none →
      exec (.transceive false opc params tmo) s =
        .next (s.exchanged false opc params tmo ⟨rx, false⟩ w r .failed false .missingPreamble none)) ∧
    (∀ body, afterPreamble s.cfg.fast rem = some body → (∀ p, body ≠ bodyOf s.cfg.fast p) →
      exec (.transceive false opc params tmo) s =
        .next (s.exchanged false opc params tmo ⟨rx, false⟩ w r .failed false .decodeError none)) ∧
    (∀ p, afterPreamble s.cfg.fast rem = some (bodyOf s.cfg.fast p) → p.head? ≠ some (~~~op) →
      exec (.transceive false opc params tmo) s =
        .next (s.exchanged false opc params tmo ⟨rx, false⟩ w r .failed false .opcodeMismatch none)) ∧
    (∀ p, afterPreamble s.cfg.fast rem = some (bodyOf s.cfg.fast p) → p.head? = some (~~~op) →
      exec (.transceive false opc params tmo) s = .next (s.replied false opc params tmo ⟨rx, false⟩ w r (some p)))

/-- R202: the transport events of one exchange, in their order; an exchange that fails the link check or the encode step makes
none. -/
def Obligations.TransceiveEvents : Prop :=
  ∀ (s t : State) (ign : Bool) (opc : Byte) (params : Bytes) (tmo : Half),
    exec (.transceive ign opc params tmo) s = .next t →
    ∃ es, t.trace = s.trace ++ es ++ [.response (responseOf t.res)] ∧
      (es = [] ↔ ¬(s.linkOpen = true ∧ framable s.build opc params.length = true)) ∧
      (es = [] ∨
        ∃ f head tail, es = head ++ tail ∧
          (head = [.wrote f false] ∨ ∃ a, head = [.wrote f true, .delayed tmo.toNat, .received tmo.toNat a]) ∧
          (tail = [] ∨ tail = [.closed] ∨ ∃ p ok, tail = [.closed, .opened p ok]))

/-! ## Block Transfer Engine -/

/-- R255, of the functions the engine segments with: the number of blocks, their lengths, that they are the
buffer, and their indices. -/
def Obligations.SegmentationLaw : Prop :=
  ∀ (data : Bytes) (bsize : Nat), 1 ≤ data.length → 1 ≤ bsize →
    let len := data.length
    let n := numBlocks len bsize
    (n - 1) * bsize < len ∧ len ≤ n * bsize ∧
    ((List.range n).map fun j => blockLength len bsize (j + 1)).sum = len ∧
    (∀ k, 1 ≤ k → k < n → blockLength len bsize k = bsize) ∧
    1 ≤ blockLength len bsize n ∧ blockLength len bsize n ≤ bsize ∧
    ((List.range n).flatMap fun j => (data.drop (blockOffset bsize (j + 1))).take (blockLength len bsize (j + 1))) = data ∧
    (n ≤ 65536 → ∀ k, 1 ≤ k → k ≤ n → (blockIndex false n k = 0 ↔ k = n) ∧ (k < n → (blockIndex false n k).toNat = k)) ∧
    (n ≤ 65535 → ∀ k, 1 ≤ k → k ≤ n → (blockIndex true n k).toNat = k)

/-- SEND_BUFFER whose every block is acknowledged at its first attempt (42_block_transfer.md R241 to R247): it sends the blocks
of R243 and R244 in order, waits the chosen timeout after each write and nowhere else, reports each block as it is acknowledged,
with elapsed times that never fall (60_exceptions.md R394), and ends COMPLETE, the last of them in BT_ELAPSED. -/
def Obligations.SendBufferCompletes : Prop :=
  ∀ (s : State) (ext : Bool) (bsize : Half) (data : Bytes) (w : List Bool) (r : List ReadAnswer),
    s.transferable bsize data →
    let blocks := blockList s.cfg.oneToN bsize data
    let n := blockCount bsize data
    let tmo := (if ext then s.cfg.tExtMs else s.cfg.tBaseMs).toNat
    s.link.writes = List.replicate n true ++ w →
    s.link.reads = s.attemptAnswers s.toggle (blocks.map fun p => (p, [s.build.stOkay])) ++ r →
    ∃ t es, exec (.sendBuffer ext bsize data) s = .next t ∧
      es.length = n ∧ risingFrom 0 es = true ∧
      t.eventsSince s = s.ackedEvents tmo (BitVec.ofNat 17 n) 1 s.toggle es blocks ++ [.response (responseOf t.res)] ∧
      t.res = { s.res.succeeded with payload := none } ∧
      t.toggle = (s.toggle ^^ decide (n % 2 = 1)) ∧
      t.bt.state = .complete ∧ t.bt.bsize = bsize ∧ t.bt.ext = ext ∧ t.bt.nblocks.toNat = n ∧ t.bt.ord.toNat = n ∧
      t.bt.retry = 0 ∧ t.bt.failIndex = 0 ∧ t.bt.failOrd = 0 ∧
      t.bt.index.toNat = (if s.cfg.oneToN then n else 0) ∧ t.bt.lastStatus = (if n = 0 then 0 else s.build.stOkay) ∧
      t.bt.elapsed = es.getLastD 0 ∧
      t.bt.len = data.length ∧ (∀ a, t.mem.readByte a = data[a]?) ∧
      t.link.writes = w ∧ t.link.reads = r ∧ t.link.opens = s.link.opens ∧
      t.linkOpen = true ∧ t.savedParams = s.savedParams ∧ t.cfg = s.cfg ∧ t.build = s.build ∧ t.cmdState = .idle ∧
      t.hostRes = s.hostRes ∧ t.pending = s.pending ∧ t.resetInput = s.resetInput ∧ t.hangIn = s.hangIn

/-- R241, the start checks: a closed link before an operand out of range; no transport event, and no register but RES_*. -/
def Obligations.SendBufferRefused : Prop :=
  ∀ (s : State) (ext : Bool) (bsize : Half) (data : Bytes),
    (s.linkOpen = false →
      exec (.sendBuffer ext bsize data) s = .next (s.ended [] { s.res.failed .channelError with payload := none })) ∧
    (s.linkOpen = true → ¬s.transferable bsize data →
      exec (.sendBuffer ext bsize data) s = .next (s.ended [] { s.res.failed .outOfRangeParameter with payload := none }))

/-- The engine never makes an access outside the bounds of R92, whatever its operands and the state: SEND_BUFFER always ends
(43_control.md R280). -/
def Obligations.SendBufferNeverFaults : Prop :=
  ∀ (s : State) (ext : Bool) (bsize : Half) (data : Bytes), ∃ t, exec (.sendBuffer ext bsize data) s = .next t

/-- R91: a transfer that starts loads `BT_BUF` whole from DATA; one that is refused leaves it. -/
def Obligations.SendBufferLoadsBuffer : Prop :=
  ∀ (s t : State) (ext : Bool) (bsize : Half) (data : Bytes), exec (.sendBuffer ext bsize data) s = .next t →
    (s.transferable bsize data → t.bt.len = data.length ∧ ∀ a, t.mem.readByte a = data[a]?) ∧
    (¬s.transferable bsize data → t.bt = s.bt ∧ ∀ a, t.mem.readByte a = s.mem.readByte a)

/-- How a transfer that starts may end (42_block_transfer.md R240, R251, R252; 60_exceptions.md R373): with every block
acknowledged, or aborted with BLOCK_TRANSFER_FAILED, its retries used up, or with LINK_LOST, on the block it names. -/
def Obligations.SendBufferEnds : Prop :=
  ∀ (s t : State) (ext : Bool) (bsize : Half) (data : Bytes), exec (.sendBuffer ext bsize data) s = .next t →
    s.transferable bsize data →
    t.bt.nblocks.toNat = blockCount bsize data ∧ t.bt.ord.toNat ≤ blockCount bsize data ∧ t.res.payload = none ∧
    t.bt.retry ≤ s.cfg.maxRetries ∧
    ((t.bt.state = .complete ∧ t.res.ok = true ∧ t.res.err = .noErr ∧ t.bt.ord.toNat = blockCount bsize data ∧
        t.bt.failIndex = 0 ∧ t.bt.failOrd = 0) ∨
      (t.bt.state = .aborted ∧ t.res.ok = false ∧ 1 ≤ t.bt.ord.toNat ∧ t.bt.failOrd = t.bt.ord ∧
        t.bt.failIndex = t.bt.index ∧
        t.bt.index.toNat = wireIndex s.cfg.oneToN (blockCount bsize data) t.bt.ord.toNat ∧
        ((t.res.err = .blockTransferFailed ∧ t.bt.retry = s.cfg.maxRetries) ∨
          (t.res.err = .linkLost ∧ t.tx.ok = false ∧ t.tx.ignore = true))))

/-- R246, R248, R250 and R251, for any block, after the blocks before it were acknowledged: a block whose every reply has a status
byte other than ST_OKAY, or no status byte, gets exactly MAX_RETRIES + 1 attempts with the same parameters, counted from 0 for
that block, no probe, and the back-off before each retry and at no other place; then the transfer aborts on it. BT_LAST_STATUS
is the last reply's status byte, or 0xFF where it had none; further bytes of a reply mean nothing. -/
def Obligations.SendBufferRetriesExhausted : Prop :=
  ∀ (s : State) (ext : Bool) (bsize : Half) (data p : Bytes) (done rest replies : List Bytes) (w : List Bool)
    (r : List ReadAnswer),
    s.transferable bsize data → blockList s.cfg.oneToN bsize data = done ++ p :: rest →
    replies.length = s.cfg.maxRetries.toNat + 1 → (∀ d ∈ replies, d.head? ≠ some s.build.stOkay) →
    let n := blockCount bsize data
    let k := done.length + 1
    let tmo := (if ext then s.cfg.tExtMs else s.cfg.tBaseMs).toNat
    let tg := s.toggle ^^ decide (done.length % 2 = 1)
    s.link.writes = List.replicate (done.length + replies.length) true ++ w →
    s.link.reads = s.attemptAnswers s.toggle (done.map fun q => (q, [s.build.stOkay])) ++
      s.attemptAnswers tg (replies.map fun d => (p, d)) ++ r →
    ∃ t es, exec (.sendBuffer ext bsize data) s = .next t ∧
      es.length = done.length ∧ risingFrom 0 es = true ∧
      t.eventsSince s = s.ackedEvents tmo (BitVec.ofNat 17 n) 1 s.toggle es done ++ s.triedEvents tmo p 0 tg replies ++
        [.response (responseOf t.res)] ∧
      t.res = { s.res.failed .blockTransferFailed with payload := none } ∧
      t.toggle = (s.toggle ^^ decide ((done.length + replies.length) % 2 = 1)) ∧
      t.bt.state = .aborted ∧ t.bt.nblocks.toNat = n ∧ t.bt.ord.toNat = k ∧ t.bt.failOrd.toNat = k ∧
      t.bt.failIndex = t.bt.index ∧ t.bt.index.toNat = wireIndex s.cfg.oneToN n k ∧ t.bt.retry = s.cfg.maxRetries ∧
      t.bt.lastStatus = (replies.getLast?.bind List.head?).getD 0xFF ∧ t.bt.elapsed = es.getLastD 0 ∧
      t.link.writes = w ∧ t.link.reads = r ∧ t.linkOpen = true ∧ t.cfg = s.cfg

/-- R249, R250 and R254: after an attempt whose exchange failed the engine sends the wake-up probe, waits out the back-off and
sends the block again, with the same toggle bit; acknowledged then, a one-block transfer completes. -/
def Obligations.SendBufferProbesAndRetries : Prop :=
  ∀ (s : State) (ext : Bool) (bsize : Half) (data rx p : Bytes) (a : ReadAnswer) (w : List Bool) (r : List ReadAnswer)
    (e : Word) (el : List Word),
    s.transferable bsize data → blockList s.cfg.oneToN bsize data = [p] → 1 ≤ s.cfg.maxRetries.toNat →
    let tmo := (if ext then s.cfg.tExtMs else s.cfg.tBaseMs).toNat
    let f := wireFrame s.cfg.fast (sentOpcode s.toggle s.build.opcCont) p
    let ping := wireFrame s.cfg.fast (sentOpcode (!s.toggle) 0x10) []
    let ack : ReadAnswer := ⟨f ++ wireFrame s.cfg.fast (~~~(sentOpcode s.toggle s.build.opcCont)) [s.build.stOkay], false⟩
    s.link.writes = true :: true :: true :: w → s.link.reads = ⟨rx, false⟩ :: a :: ack :: r → s.link.elapsed = e :: el →
    ¬f <+: rx → ¬f <+: rx.drop 1 →
    ∃ t, exec (.sendBuffer ext bsize data) s = .next t ∧
      t.eventsSince s =
        [.wrote f true, .delayed tmo, .received tmo ⟨rx, false⟩,
          .wrote ping true, .delayed s.cfg.tBaseMs.toNat, .received s.cfg.tBaseMs.toNat a,
          .delayed s.cfg.backoffUnitMs.toNat,
          .wrote f true, .delayed tmo, .received tmo ack, .progress 1 1 e,
          .response (responseOf { s.res.succeeded with payload := none })] ∧
      t.res = { s.res.succeeded with payload := none } ∧ t.bt.state = .complete ∧ t.bt.retry = 1 ∧ t.toggle = !s.toggle

/-- R249 and R252: an attempt whose write fails and whose reconnect cannot open the link leaves a probe that fails its link
check, and the transfer ends at once with LINK_LOST. -/
def Obligations.SendBufferLinkLost : Prop :=
  ∀ (s : State) (ext : Bool) (bsize : Half) (data p tp : Bytes) (ps : List Bytes) (w o : List Bool),
    s.transferable bsize data → blockList s.cfg.oneToN bsize data = p :: ps →
    s.link.writes = false :: w → s.savedParams = some tp → s.link.opens = false :: o →
    ∃ t, exec (.sendBuffer ext bsize data) s = .next t ∧
      t.eventsSince s =
        [.wrote (wireFrame s.cfg.fast (sentOpcode s.toggle s.build.opcCont) p) false, .closed, .opened tp false,
          .response (responseOf { s.res.failed .linkLost with payload := none })] ∧
      t.res = { s.res.failed .linkLost with payload := none } ∧ t.linkOpen = false ∧
      t.bt.state = .aborted ∧ t.bt.retry = 0 ∧ t.bt.failOrd.toNat = 1 ∧ t.bt.ord.toNat = 1 ∧ t.bt.failIndex = t.bt.index ∧
      t.bt.index.toNat = wireIndex s.cfg.oneToN (blockCount bsize data) 1 ∧
      t.tx.state = .failed ∧ t.tx.err = .channelError ∧ t.tx.ignore = true

/-- R245 and R246: the six outcomes of an attempt, by the exchange that has just ended. -/
def Obligations.AttemptOutcomes : Prop :=
  ∀ s : State,
    (s.tx.ok = false → classifyAttempt s = .transceiveFailed) ∧
    (∀ b, s.tx.ok = true → s.tx.payload = some [b] → classifyAttempt s = .unexpectedStatus) ∧
    (∀ b st more, s.tx.ok = true → s.tx.payload = some (b :: st :: more) →
      (st = s.build.stOkay → classifyAttempt s = .okay) ∧
      (st ≠ s.build.stOkay → st = s.build.stBlockCksum → classifyAttempt s = .blockChecksumError) ∧
      (st ∉ [s.build.stOkay, s.build.stBlockCksum] → st = s.build.stFwCksum → classifyAttempt s = .fwChecksumError) ∧
      (st ∉ [s.build.stOkay, s.build.stBlockCksum, s.build.stFwCksum] → st = s.build.stNotActive →
        classifyAttempt s = .downloadNotActive) ∧
      (st ∉ [s.build.stOkay, s.build.stBlockCksum, s.build.stFwCksum, s.build.stNotActive] →
        classifyAttempt s = .unexpectedStatus))

/-- R247 and R394: the progress events of a transfer, whatever the LINK answers: one for each block acknowledged, in order,
with the number of blocks and elapsed times that never fall. -/
def Obligations.ProgressInOrder : Prop :=
  ∀ (s t : State) (ext : Bool) (bsize : Half) (data : Bytes), exec (.sendBuffer ext bsize data) s = .next t →
    s.transferable bsize data →
    ∃ m, m ≤ blockCount bsize data ∧ (t.res.ok = true → m = blockCount bsize data) ∧
      (t.res.ok = false → m + 1 = t.bt.ord.toNat) ∧
      (progressOf (t.eventsSince s)).map (fun e => (e.1.toNat, e.2.1.toNat)) =
        (List.range m).map (fun j => (j + 1, blockCount bsize data)) ∧
      risingFrom 0 ((progressOf (t.eventsSince s)).map fun e => e.2.2) = true

/-- R411: a transfer of N blocks writes at most 2 · N · (MAX_RETRIES + 1) frames. -/
def Obligations.TransferFramesBounded : Prop :=
  ∀ (s t : State) (ext : Bool) (bsize : Half) (data : Bytes), exec (.sendBuffer ext bsize data) s = .next t →
    s.transferable bsize data →
    (framesWritten (t.eventsSince s)).length ≤ 2 * blockCount bsize data * (s.cfg.maxRetries.toNat + 1)

/-! ## Wire-command wrappers -/

/-- PING, GET_VERSIONS, GET_BATTERY_POWER, STOP_ALL_TASKS, DELETE_ALL_TASKS and DELETE_ALL_SUBS (R312 to R314, R316 to R318)
complete with the payload of the reply, whatever opcode table the model is given (log 8; its default is log 9). -/
def Obligations.PlainWrappersComplete : Prop :=
  ∀ (s : State) (t : Half) (d : Bytes) (w : List Bool) (r : List ReadAnswer) (i : Instr) (f : WireForm),
    i ∈ ([.ping t, .getVersions t, .getBatteryPower t, .stopAllTasks t, .deleteAllTasks t, .deleteAllSubs t] : List Instr) →
    wireForm s.build i = some f → f.sendable s.build →
    let a := s.echoAndReply f.opcode f.params d
    s.linkGives a w r →
    exec i s = .next (s.wrapped false f.opcode f.params t a w r (some (s.replyPayload f.opcode d)))

/-- GO_INTO_BOOT_MODE, UNLOCK_FIRMWARE and REMOTE (R321, R323, R324) complete with payload NULL, whatever the read returns and
whatever opcode table the model is given (log 8; its default is log 9). -/
def Obligations.IgnoringWrappersComplete : Prop :=
  ∀ (s : State) (msg t : Half) (a : ReadAnswer) (w : List Bool) (r : List ReadAnswer) (i : Instr) (f : WireForm),
    i ∈ ([.goIntoBootMode t, .unlockFirmware t, .remote msg t] : List Instr) →
    wireForm s.build i = some f → f.sendable s.build → s.linkGives a w r →
    exec i s = .next (s.wrapped true f.opcode f.params t a w r none)

/-- BEGIN_TASK_DOWNLOAD, CONTINUE_DOWNLOAD and BEGIN_FIRMWARE_DOWNLOAD (R319, R320, R322) complete with the payload of the
reply, where their operands can be encoded, whatever opcode table the model is given (log 8; its default is log 9). The width
of a size is the model's (log 16), a CONTINUE_DOWNLOAD of no bytes is framed by the model's choice (log 17), and so is a
BEGIN_FIRMWARE_DOWNLOAD of an address other than 0x8000 (log 18). -/
def Obligations.DownloadWrappersComplete : Prop :=
  ∀ (s : State) (task : Byte) (size : Word) (idx addr cs t : Half) (data d : Bytes) (w : List Bool) (r : List ReadAnswer)
    (i : Instr) (f : WireForm),
    i ∈ ([.beginTaskDownload task size t, .continueDownload idx data t, .beginFirmwareDownload addr cs t] : List Instr) →
    wireForm s.build i = some f → f.inRange = true → f.sendable s.build →
    let a := s.echoAndReply f.opcode f.params d
    s.linkGives a w r →
    exec i s = .next (s.wrapped false f.opcode f.params t a w r (some (s.replyPayload f.opcode d)))

/-- SELECT_PROGRAM, PLAY_TONE and PLAY_SYSTEM_SOUND (R315, R325, R326) complete with the payload of the reply, where their
operands are in range, whatever opcode table and sound bound the model is given (log 8; their defaults are log 9). The width of
these operands is the model's (log 16). -/
def Obligations.CheckedWrappersComplete : Prop :=
  ∀ (s : State) (slot freq dur sound : Word) (t : Half) (d : Bytes) (w : List Bool) (r : List ReadAnswer) (i : Instr)
    (f : WireForm),
    i ∈ ([.selectProgram slot t, .playTone freq dur t, .playSystemSound sound t] : List Instr) →
    wireForm s.build i = some f → f.inRange = true → f.sendable s.build →
    let a := s.echoAndReply f.opcode f.params d
    s.linkGives a w r →
    exec i s = .next (s.wrapped false f.opcode f.params t a w r (some (s.replyPayload f.opcode d)))

/-- An operand out of range gives OUT_OF_RANGE_PARAMETER with no command issued and no transport event (R311, R315, R319, R325,
R326; for CONTINUE_DOWNLOAD the model's, log 16), whatever sound bound the model is given (log 8; its default is log 9). -/
def Obligations.WrappersOutOfRange : Prop :=
  ∀ (s : State) (t : Half),
    (∀ slot : Word, (s.build.slotMinIsOne = true ∧ slot.toNat = 0) ∨ 5 < slot.toNat →
      exec (.selectProgram slot t) s = .next (s.withHostResult false .outOfRangeParameter none)) ∧
    (∀ (task : Byte) (size : Word), 65535 < size.toNat →
      exec (.beginTaskDownload task size t) s = .next (s.withHostResult false .outOfRangeParameter none)) ∧
    (∀ (idx : Half) (data : Bytes), 65535 < data.length →
      exec (.continueDownload idx data t) s = .next (s.withHostResult false .outOfRangeParameter none)) ∧
    (∀ freq dur : Word, 65535 < freq.toNat ∨ 255 < dur.toNat →
      exec (.playTone freq dur t) s = .next (s.withHostResult false .outOfRangeParameter none)) ∧
    (∀ sound : Word, s.build.soundMax.toNat < sound.toNat →
      exec (.playSystemSound sound t) s = .next (s.withHostResult false .outOfRangeParameter none)) ∧
    State.reset.build.soundMax.toNat = 5

/-- R311: whatever the state and the LINK, a wrapper with any operands in range is its one TRANSCEIVE, and its result the
response's RES_OK, RES_ERR and RES_PAYLOAD; so its errors are those of TRANSCEIVE. The opcode and the parameters are those of
the build's opcode table (log 8), and with the default table, which the machine has from reset, they are the bytes of R312 to
R326 (log 9). That a result is kept in a field (log 15), the empty block of CONTINUE_DOWNLOAD (log 17) and any address of
BEGIN_FIRMWARE_DOWNLOAD (log 18) are the model's. -/
def Obligations.WrappersAreTransceives : Prop :=
  (∀ (s u : State) (i : Instr) (f : WireForm), wireForm s.build i = some f → f.inRange = true →
    exec (.transceive f.ign f.opcode f.params f.timeout) s = .next u →
    exec i s = .next (u.withHostResult u.res.ok u.res.err u.res.payload)) ∧
  (∀ (s u : State) (slot size freq dur sound : Word) (task : Byte) (idx addr cs msg t : Half) (data : Bytes) (i : Instr)
      (inRange ign : Bool) (opc : Byte) (params : Bytes),
    s.build.wire = State.reset.build.wire → s.build.opcCont = State.reset.build.opcCont →
    s.build.opcRemote = State.reset.build.opcRemote →
    let loByte (v : Nat) : Byte := BitVec.ofNat 8 v
    let hiByte (v : Nat) : Byte := BitVec.ofNat 8 (v / 256)
    (i, inRange, ign, opc, params) ∈ ([
      (.ping t, true, false, 0x10, []), (.getVersions t, true, false, 0x15, [0x01, 0x03, 0x05, 0x07, 0x0B]),
      (.getBatteryPower t, true, false, 0x30, []),
      (.selectProgram slot t, decide (slot.toNat ≤ 5 ∧ (s.build.slotMinIsOne = true → 1 ≤ slot.toNat)), false, 0x91,
        [loByte slot.toNat]),
      (.stopAllTasks t, true, false, 0x50, []), (.deleteAllTasks t, true, false, 0x40, []),
      (.deleteAllSubs t, true, false, 0x70, []),
      (.beginTaskDownload task size t, decide (size.toNat ≤ 65535), false, 0x25,
        [0x00, task, 0x00, loByte size.toNat, hiByte size.toNat]),
      (.continueDownload idx data t, decide (data.length ≤ 65535), false, 0x45, headerBytes idx.toNat data),
      (.goIntoBootMode t, true, true, 0x65, [0x01, 0x03, 0x05, 0x07, 0x0B]),
      (.beginFirmwareDownload addr cs t, true, false, 0x75,
        [loByte addr.toNat, hiByte addr.toNat, loByte cs.toNat, hiByte cs.toNat, 0x00]),
      (.unlockFirmware t, true, true, 0xA5, [0x4C, 0x45, 0x47, 0x4F, 0xAE]),
      (.remote msg t, true, true, 0xD2, [hiByte msg.toNat, loByte msg.toNat]),
      (.playTone freq dur t, decide (freq.toNat ≤ 65535 ∧ dur.toNat ≤ 255), false, 0x23,
        [loByte freq.toNat, hiByte freq.toNat, loByte dur.toNat]),
      (.playSystemSound sound t, decide (sound.toNat ≤ s.build.soundMax.toNat), false, 0x51, [loByte sound.toNat])] :
        List (Instr × Bool × Bool × Byte × Bytes)) →
    inRange = true → exec (.transceive ign opc params t) s = .next u →
    exec i s = .next (u.withHostResult u.res.ok u.res.err u.res.payload))

/-- R329: an opcode of the closed table goes out as itself or, with the toggle set, plus 8; the reply's first byte must be 0xFF
less what was sent, and the complement for the other toggle value is not. -/
def Obligations.ReplyAnswersTheToggle : Prop :=
  ∀ (s : State) (opc reply : Byte) (params d : Bytes) (t : Half) (w : List Bool) (r : List ReadAnswer),
    opc ∈ ([0x10, 0x15, 0x30, 0x91, 0x50, 0x40, 0x70, 0x25, 0x45, 0x65, 0x75, 0xA5, 0xD2, 0x23, 0x51] : List Byte) →
    let op := sentOpcode s.toggle opc
    op.toNat = opc.toNat + (if s.toggle then 8 else 0) ∧ (~~~(sentOpcode (!s.toggle) opc)).toNat ≠ 0xFF - op.toNat ∧
    (framable s.build opc params.length = true →
      let a : ReadAnswer := ⟨wireFrame s.cfg.fast op params ++ wireFrame s.cfg.fast reply d, false⟩
      s.linkGives a w r →
      exec (.transceive false opc params t) s = .next (
        if reply.toNat = 0xFF - op.toNat then s.replied false opc params t a w r (some (reply :: d))
        else s.exchanged false opc params t a w r .failed false .opcodeMismatch none))

/-! ## What instructions leave alone, and what every step keeps -/

/-- Every command delivers exactly one response, as its last event, with the result registers it leaves (43_control.md R280); a
wrapper whose operand is out of range issues no command. -/
def Obligations.OneResponsePerCommand : Prop :=
  ∀ (s t : State) (i : Instr), exec i s = .next t →
    (t.cmdState = .idle ∧ ∃ es, t.trace = s.trace ++ es ++ [.response (responseOf t.res)] ∧
      ∀ e ∈ es, e.isResponse = false) ∨
    (i.port = .wire ∧ t = s.withHostResult false .outOfRangeParameter none)

/-- Which instructions write what, of all 25 (10_state.md R34 to R38, R56; 20_memory.md R90; 40_frame_codec.md R165, R175;
43_control.md R281 to R287): the build parameters never change, and neither do the requests, the reset input and the LINK's
hang, which are the model's own (log 11, log 12, log 20). -/
def Obligations.WhoWritesWhat : Prop :=
  ∀ (s t : State) (i : Instr), exec i s = .next t →
    t.build = s.build ∧ t.pending = s.pending ∧ t.resetInput = s.resetInput ∧ t.hangIn = s.hangIn ∧
    (i.port = .command → t.hostRes = s.hostRes) ∧
    ((∀ a v, i ≠ .cfgWrite a v) → t.cfg = s.cfg) ∧
    ((∀ q raw, i ≠ .decode q raw) → t.res.valid = s.res.valid) ∧
    ((∀ a, i ≠ .cfgRead a) → i ≠ .statusRead → t.res.value = s.res.value) ∧
    ((∀ tp, i ≠ .sessionStart tp) → i ≠ .sessionEnd → t.savedParams = s.savedParams) ∧
    ((∀ e b d, i ≠ .sendBuffer e b d) → t.bt = s.bt ∧ ∀ a, t.mem.readByte a = s.mem.readByte a) ∧
    (i = .nop ∨ (∃ o p, i = .encode o p) ∨ (∃ q raw, i = .decode q raw) ∨ i = .sessionEnd ∨ (∃ a v, i = .cfgWrite a v) ∨
        (∃ a, i = .cfgRead a) ∨ i = .statusRead →
      t.tx = s.tx ∧ (i ≠ .sessionEnd → t.linkOpen = s.linkOpen) ∧ t.link = s.link ∧
      ((∀ o p, i ≠ .encode o p) → t.toggle = s.toggle))

/-- The invariant holds right after reset. -/
def Obligations.InvariantAtReset : Prop := State.reset.Inv

/-- Every step from every state in which the invariant holds keeps it: the memory's canonical form, `BT_BUF` as long as
`BT_LEN` and within its capacity, saved parameters under an open link, both engines at rest, and flags that agree with their
error codes. -/
def Obligations.InvariantKeptByStep : Prop := ∀ s t : State, s.Inv → step s = .next t → t.Inv

/-! ## Host programs (45_host_sequences.md) -/

/-- R341, with scenario B's image. -/
def Obligations.FirmwareChecksum : Prop :=
  (∀ img : Bytes, (fwChecksum img).toNat = ((img.take 19456).map BitVec.toNat).sum % 65536) ∧
  fwChecksum (List.replicate 20000 0x01) = 19456

/-- R352: slot 6 fails with no command and no transport event, and the program download ends Aborted in stage Preparing. That the
program is a function over `exec` and does not check its precondition, an open session, is the model's choice (log 21). -/
def Obligations.ProgramDownloadSlotSix : Prop :=
  ∀ (s : State) (t : Half) (chunks : List Chunk),
    exec (.selectProgram 6 t) s = .next (s.withHostResult false .outOfRangeParameter none) ∧
    programDownload 6 chunks s = .next
      ⟨s.withHostResult false .outOfRangeParameter none, .aborted, some { err := .outOfRangeParameter },
        [⟨.preparing, .selectProgram, false⟩]⟩

/-- R343 and R340: on a closed link the firmware download's three pings fail, each with its response as its only event, and the
download aborts with their error. That the program runs where its preconditions fail, an open session and the regular profile
(R342), is the model's choice (log 21). -/
def Obligations.FirmwareDownloadOnClosedLink : Prop :=
  ∀ (s : State) (blockSize : Half) (ext : Bool) (img : Bytes), s.linkOpen = false →
    ∃ h, firmwareDownload blockSize ext img s = .next h ∧ h.stage = .aborted ∧ h.error = some { err := .channelError } ∧
      h.reports = [⟨.connecting, .ping, false⟩] ∧ h.core.toggle = s.toggle ∧
      h.core.eventsSince s =
        List.replicate 3 (.response (responseOf { s.res.failed .channelError with payload := none })) ∧
      h.core.hostRes = some ⟨false, .channelError, none⟩

/-- R353: the transfer step of either download, whatever the LINK answers: its report, and for a block-transfer abort, not for a
refusal by SEND_BUFFER's start checks, the error with BT_FAIL_INDEX and BT_FAIL_ORD, read by CFG_READ in this order (the model's
choice, log 21). -/
def Obligations.TransferStepReports : Prop :=
  ∀ (h : HostRun) (ext : Bool) (bsize : Half) (data : Bytes) (t u v : State), h.error = none →
    exec (.sendBuffer ext bsize data) h.core = .next t →
    exec (.cfgRead 0x14) t = .next u → exec (.cfgRead 0x15) u = .next v →
    transferStep ext bsize data h = .next (
      if t.res.ok then { h with core := t, reports := h.reports ++ [⟨h.stage, .transfer, true⟩] }
      else if t.bt.state = .aborted ∧ (t.res.err = .blockTransferFailed ∨ t.res.err = .linkLost) then
        ⟨v, .aborted,
          some { err := t.res.err
                 failed := some ⟨BitVec.ofNat 32 t.bt.failIndex.toNat, BitVec.ofNat 32 t.bt.failOrd.toNat⟩ },
          h.reports ++ [⟨h.stage, .transfer, false⟩]⟩
      else ⟨t, .aborted, some { err := t.res.err }, h.reports ++ [⟨h.stage, .transfer, false⟩]⟩)
end

