-- ==== Sys2Proof/Laws/State.lean ====
section
/-! SUPPORT. One lemma per field per update of the state. -/

namespace Sys2Proof.Machine

/-! ## `State.setCmdState` -/

@[simp] theorem State.setCmdState_cmdState (v : CmdState) (s : State) : (State.setCmdState v s).cmdState = v := rfl
@[simp] theorem State.setCmdState_toggle (v : CmdState) (s : State) : (State.setCmdState v s).toggle = s.toggle := rfl
@[simp] theorem State.setCmdState_linkOpen (v : CmdState) (s : State) : (State.setCmdState v s).linkOpen = s.linkOpen := rfl
@[simp] theorem State.setCmdState_savedParams (v : CmdState) (s : State) : (State.setCmdState v s).savedParams = s.savedParams := rfl
@[simp] theorem State.setCmdState_tx (v : CmdState) (s : State) : (State.setCmdState v s).tx = s.tx := rfl
@[simp] theorem State.setCmdState_bt (v : CmdState) (s : State) : (State.setCmdState v s).bt = s.bt := rfl
@[simp] theorem State.setCmdState_mem (v : CmdState) (s : State) : (State.setCmdState v s).mem = s.mem := rfl
@[simp] theorem State.setCmdState_res (v : CmdState) (s : State) : (State.setCmdState v s).res = s.res := rfl
@[simp] theorem State.setCmdState_cfg (v : CmdState) (s : State) : (State.setCmdState v s).cfg = s.cfg := rfl
@[simp] theorem State.setCmdState_build (v : CmdState) (s : State) : (State.setCmdState v s).build = s.build := rfl
@[simp] theorem State.setCmdState_pending (v : CmdState) (s : State) : (State.setCmdState v s).pending = s.pending := rfl
@[simp] theorem State.setCmdState_link (v : CmdState) (s : State) : (State.setCmdState v s).link = s.link := rfl
@[simp] theorem State.setCmdState_trace (v : CmdState) (s : State) : (State.setCmdState v s).trace = s.trace := rfl
@[simp] theorem State.setCmdState_hostRes (v : CmdState) (s : State) : (State.setCmdState v s).hostRes = s.hostRes := rfl
@[simp] theorem State.setCmdState_resetInput (v : CmdState) (s : State) : (State.setCmdState v s).resetInput = s.resetInput := rfl
@[simp] theorem State.setCmdState_hangIn (v : CmdState) (s : State) : (State.setCmdState v s).hangIn = s.hangIn := rfl

/-! ## `State.setToggle` -/

@[simp] theorem State.setToggle_cmdState (v : Bool) (s : State) : (State.setToggle v s).cmdState = s.cmdState := rfl
@[simp] theorem State.setToggle_toggle (v : Bool) (s : State) : (State.setToggle v s).toggle = v := rfl
@[simp] theorem State.setToggle_linkOpen (v : Bool) (s : State) : (State.setToggle v s).linkOpen = s.linkOpen := rfl
@[simp] theorem State.setToggle_savedParams (v : Bool) (s : State) : (State.setToggle v s).savedParams = s.savedParams := rfl
@[simp] theorem State.setToggle_tx (v : Bool) (s : State) : (State.setToggle v s).tx = s.tx := rfl
@[simp] theorem State.setToggle_bt (v : Bool) (s : State) : (State.setToggle v s).bt = s.bt := rfl
@[simp] theorem State.setToggle_mem (v : Bool) (s : State) : (State.setToggle v s).mem = s.mem := rfl
@[simp] theorem State.setToggle_res (v : Bool) (s : State) : (State.setToggle v s).res = s.res := rfl
@[simp] theorem State.setToggle_cfg (v : Bool) (s : State) : (State.setToggle v s).cfg = s.cfg := rfl
@[simp] theorem State.setToggle_build (v : Bool) (s : State) : (State.setToggle v s).build = s.build := rfl
@[simp] theorem State.setToggle_pending (v : Bool) (s : State) : (State.setToggle v s).pending = s.pending := rfl
@[simp] theorem State.setToggle_link (v : Bool) (s : State) : (State.setToggle v s).link = s.link := rfl
@[simp] theorem State.setToggle_trace (v : Bool) (s : State) : (State.setToggle v s).trace = s.trace := rfl
@[simp] theorem State.setToggle_hostRes (v : Bool) (s : State) : (State.setToggle v s).hostRes = s.hostRes := rfl
@[simp] theorem State.setToggle_resetInput (v : Bool) (s : State) : (State.setToggle v s).resetInput = s.resetInput := rfl
@[simp] theorem State.setToggle_hangIn (v : Bool) (s : State) : (State.setToggle v s).hangIn = s.hangIn := rfl

/-! ## `State.setLinkOpen` -/

@[simp] theorem State.setLinkOpen_cmdState (v : Bool) (s : State) : (State.setLinkOpen v s).cmdState = s.cmdState := rfl
@[simp] theorem State.setLinkOpen_toggle (v : Bool) (s : State) : (State.setLinkOpen v s).toggle = s.toggle := rfl
@[simp] theorem State.setLinkOpen_linkOpen (v : Bool) (s : State) : (State.setLinkOpen v s).linkOpen = v := rfl
@[simp] theorem State.setLinkOpen_savedParams (v : Bool) (s : State) : (State.setLinkOpen v s).savedParams = s.savedParams := rfl
@[simp] theorem State.setLinkOpen_tx (v : Bool) (s : State) : (State.setLinkOpen v s).tx = s.tx := rfl
@[simp] theorem State.setLinkOpen_bt (v : Bool) (s : State) : (State.setLinkOpen v s).bt = s.bt := rfl
@[simp] theorem State.setLinkOpen_mem (v : Bool) (s : State) : (State.setLinkOpen v s).mem = s.mem := rfl
@[simp] theorem State.setLinkOpen_res (v : Bool) (s : State) : (State.setLinkOpen v s).res = s.res := rfl
@[simp] theorem State.setLinkOpen_cfg (v : Bool) (s : State) : (State.setLinkOpen v s).cfg = s.cfg := rfl
@[simp] theorem State.setLinkOpen_build (v : Bool) (s : State) : (State.setLinkOpen v s).build = s.build := rfl
@[simp] theorem State.setLinkOpen_pending (v : Bool) (s : State) : (State.setLinkOpen v s).pending = s.pending := rfl
@[simp] theorem State.setLinkOpen_link (v : Bool) (s : State) : (State.setLinkOpen v s).link = s.link := rfl
@[simp] theorem State.setLinkOpen_trace (v : Bool) (s : State) : (State.setLinkOpen v s).trace = s.trace := rfl
@[simp] theorem State.setLinkOpen_hostRes (v : Bool) (s : State) : (State.setLinkOpen v s).hostRes = s.hostRes := rfl
@[simp] theorem State.setLinkOpen_resetInput (v : Bool) (s : State) : (State.setLinkOpen v s).resetInput = s.resetInput := rfl
@[simp] theorem State.setLinkOpen_hangIn (v : Bool) (s : State) : (State.setLinkOpen v s).hangIn = s.hangIn := rfl

/-! ## `State.setSavedParams` -/

@[simp] theorem State.setSavedParams_cmdState (v : Option Bytes) (s : State) : (State.setSavedParams v s).cmdState = s.cmdState := rfl
@[simp] theorem State.setSavedParams_toggle (v : Option Bytes) (s : State) : (State.setSavedParams v s).toggle = s.toggle := rfl
@[simp] theorem State.setSavedParams_linkOpen (v : Option Bytes) (s : State) : (State.setSavedParams v s).linkOpen = s.linkOpen := rfl
@[simp] theorem State.setSavedParams_savedParams (v : Option Bytes) (s : State) : (State.setSavedParams v s).savedParams = v := rfl
@[simp] theorem State.setSavedParams_tx (v : Option Bytes) (s : State) : (State.setSavedParams v s).tx = s.tx := rfl
@[simp] theorem State.setSavedParams_bt (v : Option Bytes) (s : State) : (State.setSavedParams v s).bt = s.bt := rfl
@[simp] theorem State.setSavedParams_mem (v : Option Bytes) (s : State) : (State.setSavedParams v s).mem = s.mem := rfl
@[simp] theorem State.setSavedParams_res (v : Option Bytes) (s : State) : (State.setSavedParams v s).res = s.res := rfl
@[simp] theorem State.setSavedParams_cfg (v : Option Bytes) (s : State) : (State.setSavedParams v s).cfg = s.cfg := rfl
@[simp] theorem State.setSavedParams_build (v : Option Bytes) (s : State) : (State.setSavedParams v s).build = s.build := rfl
@[simp] theorem State.setSavedParams_pending (v : Option Bytes) (s : State) : (State.setSavedParams v s).pending = s.pending := rfl
@[simp] theorem State.setSavedParams_link (v : Option Bytes) (s : State) : (State.setSavedParams v s).link = s.link := rfl
@[simp] theorem State.setSavedParams_trace (v : Option Bytes) (s : State) : (State.setSavedParams v s).trace = s.trace := rfl
@[simp] theorem State.setSavedParams_hostRes (v : Option Bytes) (s : State) : (State.setSavedParams v s).hostRes = s.hostRes := rfl
@[simp] theorem State.setSavedParams_resetInput (v : Option Bytes) (s : State) : (State.setSavedParams v s).resetInput = s.resetInput := rfl
@[simp] theorem State.setSavedParams_hangIn (v : Option Bytes) (s : State) : (State.setSavedParams v s).hangIn = s.hangIn := rfl

/-! ## `State.setTx` -/

@[simp] theorem State.setTx_cmdState (v : Tx) (s : State) : (State.setTx v s).cmdState = s.cmdState := rfl
@[simp] theorem State.setTx_toggle (v : Tx) (s : State) : (State.setTx v s).toggle = s.toggle := rfl
@[simp] theorem State.setTx_linkOpen (v : Tx) (s : State) : (State.setTx v s).linkOpen = s.linkOpen := rfl
@[simp] theorem State.setTx_savedParams (v : Tx) (s : State) : (State.setTx v s).savedParams = s.savedParams := rfl
@[simp] theorem State.setTx_tx (v : Tx) (s : State) : (State.setTx v s).tx = v := rfl
@[simp] theorem State.setTx_bt (v : Tx) (s : State) : (State.setTx v s).bt = s.bt := rfl
@[simp] theorem State.setTx_mem (v : Tx) (s : State) : (State.setTx v s).mem = s.mem := rfl
@[simp] theorem State.setTx_res (v : Tx) (s : State) : (State.setTx v s).res = s.res := rfl
@[simp] theorem State.setTx_cfg (v : Tx) (s : State) : (State.setTx v s).cfg = s.cfg := rfl
@[simp] theorem State.setTx_build (v : Tx) (s : State) : (State.setTx v s).build = s.build := rfl
@[simp] theorem State.setTx_pending (v : Tx) (s : State) : (State.setTx v s).pending = s.pending := rfl
@[simp] theorem State.setTx_link (v : Tx) (s : State) : (State.setTx v s).link = s.link := rfl
@[simp] theorem State.setTx_trace (v : Tx) (s : State) : (State.setTx v s).trace = s.trace := rfl
@[simp] theorem State.setTx_hostRes (v : Tx) (s : State) : (State.setTx v s).hostRes = s.hostRes := rfl
@[simp] theorem State.setTx_resetInput (v : Tx) (s : State) : (State.setTx v s).resetInput = s.resetInput := rfl
@[simp] theorem State.setTx_hangIn (v : Tx) (s : State) : (State.setTx v s).hangIn = s.hangIn := rfl

/-! ## `State.setBt` -/

@[simp] theorem State.setBt_cmdState (v : Bt) (s : State) : (State.setBt v s).cmdState = s.cmdState := rfl
@[simp] theorem State.setBt_toggle (v : Bt) (s : State) : (State.setBt v s).toggle = s.toggle := rfl
@[simp] theorem State.setBt_linkOpen (v : Bt) (s : State) : (State.setBt v s).linkOpen = s.linkOpen := rfl
@[simp] theorem State.setBt_savedParams (v : Bt) (s : State) : (State.setBt v s).savedParams = s.savedParams := rfl
@[simp] theorem State.setBt_tx (v : Bt) (s : State) : (State.setBt v s).tx = s.tx := rfl
@[simp] theorem State.setBt_bt (v : Bt) (s : State) : (State.setBt v s).bt = v := rfl
@[simp] theorem State.setBt_mem (v : Bt) (s : State) : (State.setBt v s).mem = s.mem := rfl
@[simp] theorem State.setBt_res (v : Bt) (s : State) : (State.setBt v s).res = s.res := rfl
@[simp] theorem State.setBt_cfg (v : Bt) (s : State) : (State.setBt v s).cfg = s.cfg := rfl
@[simp] theorem State.setBt_build (v : Bt) (s : State) : (State.setBt v s).build = s.build := rfl
@[simp] theorem State.setBt_pending (v : Bt) (s : State) : (State.setBt v s).pending = s.pending := rfl
@[simp] theorem State.setBt_link (v : Bt) (s : State) : (State.setBt v s).link = s.link := rfl
@[simp] theorem State.setBt_trace (v : Bt) (s : State) : (State.setBt v s).trace = s.trace := rfl
@[simp] theorem State.setBt_hostRes (v : Bt) (s : State) : (State.setBt v s).hostRes = s.hostRes := rfl
@[simp] theorem State.setBt_resetInput (v : Bt) (s : State) : (State.setBt v s).resetInput = s.resetInput := rfl
@[simp] theorem State.setBt_hangIn (v : Bt) (s : State) : (State.setBt v s).hangIn = s.hangIn := rfl

/-! ## `State.setMem` -/

@[simp] theorem State.setMem_cmdState (v : Memory) (s : State) : (State.setMem v s).cmdState = s.cmdState := rfl
@[simp] theorem State.setMem_toggle (v : Memory) (s : State) : (State.setMem v s).toggle = s.toggle := rfl
@[simp] theorem State.setMem_linkOpen (v : Memory) (s : State) : (State.setMem v s).linkOpen = s.linkOpen := rfl
@[simp] theorem State.setMem_savedParams (v : Memory) (s : State) : (State.setMem v s).savedParams = s.savedParams := rfl
@[simp] theorem State.setMem_tx (v : Memory) (s : State) : (State.setMem v s).tx = s.tx := rfl
@[simp] theorem State.setMem_bt (v : Memory) (s : State) : (State.setMem v s).bt = s.bt := rfl
@[simp] theorem State.setMem_mem (v : Memory) (s : State) : (State.setMem v s).mem = v := rfl
@[simp] theorem State.setMem_res (v : Memory) (s : State) : (State.setMem v s).res = s.res := rfl
@[simp] theorem State.setMem_cfg (v : Memory) (s : State) : (State.setMem v s).cfg = s.cfg := rfl
@[simp] theorem State.setMem_build (v : Memory) (s : State) : (State.setMem v s).build = s.build := rfl
@[simp] theorem State.setMem_pending (v : Memory) (s : State) : (State.setMem v s).pending = s.pending := rfl
@[simp] theorem State.setMem_link (v : Memory) (s : State) : (State.setMem v s).link = s.link := rfl
@[simp] theorem State.setMem_trace (v : Memory) (s : State) : (State.setMem v s).trace = s.trace := rfl
@[simp] theorem State.setMem_hostRes (v : Memory) (s : State) : (State.setMem v s).hostRes = s.hostRes := rfl
@[simp] theorem State.setMem_resetInput (v : Memory) (s : State) : (State.setMem v s).resetInput = s.resetInput := rfl
@[simp] theorem State.setMem_hangIn (v : Memory) (s : State) : (State.setMem v s).hangIn = s.hangIn := rfl

/-! ## `State.setRes` -/

@[simp] theorem State.setRes_cmdState (v : Res) (s : State) : (State.setRes v s).cmdState = s.cmdState := rfl
@[simp] theorem State.setRes_toggle (v : Res) (s : State) : (State.setRes v s).toggle = s.toggle := rfl
@[simp] theorem State.setRes_linkOpen (v : Res) (s : State) : (State.setRes v s).linkOpen = s.linkOpen := rfl
@[simp] theorem State.setRes_savedParams (v : Res) (s : State) : (State.setRes v s).savedParams = s.savedParams := rfl
@[simp] theorem State.setRes_tx (v : Res) (s : State) : (State.setRes v s).tx = s.tx := rfl
@[simp] theorem State.setRes_bt (v : Res) (s : State) : (State.setRes v s).bt = s.bt := rfl
@[simp] theorem State.setRes_mem (v : Res) (s : State) : (State.setRes v s).mem = s.mem := rfl
@[simp] theorem State.setRes_res (v : Res) (s : State) : (State.setRes v s).res = v := rfl
@[simp] theorem State.setRes_cfg (v : Res) (s : State) : (State.setRes v s).cfg = s.cfg := rfl
@[simp] theorem State.setRes_build (v : Res) (s : State) : (State.setRes v s).build = s.build := rfl
@[simp] theorem State.setRes_pending (v : Res) (s : State) : (State.setRes v s).pending = s.pending := rfl
@[simp] theorem State.setRes_link (v : Res) (s : State) : (State.setRes v s).link = s.link := rfl
@[simp] theorem State.setRes_trace (v : Res) (s : State) : (State.setRes v s).trace = s.trace := rfl
@[simp] theorem State.setRes_hostRes (v : Res) (s : State) : (State.setRes v s).hostRes = s.hostRes := rfl
@[simp] theorem State.setRes_resetInput (v : Res) (s : State) : (State.setRes v s).resetInput = s.resetInput := rfl
@[simp] theorem State.setRes_hangIn (v : Res) (s : State) : (State.setRes v s).hangIn = s.hangIn := rfl

/-! ## `State.setCfg` -/

@[simp] theorem State.setCfg_cmdState (v : Cfg) (s : State) : (State.setCfg v s).cmdState = s.cmdState := rfl
@[simp] theorem State.setCfg_toggle (v : Cfg) (s : State) : (State.setCfg v s).toggle = s.toggle := rfl
@[simp] theorem State.setCfg_linkOpen (v : Cfg) (s : State) : (State.setCfg v s).linkOpen = s.linkOpen := rfl
@[simp] theorem State.setCfg_savedParams (v : Cfg) (s : State) : (State.setCfg v s).savedParams = s.savedParams := rfl
@[simp] theorem State.setCfg_tx (v : Cfg) (s : State) : (State.setCfg v s).tx = s.tx := rfl
@[simp] theorem State.setCfg_bt (v : Cfg) (s : State) : (State.setCfg v s).bt = s.bt := rfl
@[simp] theorem State.setCfg_mem (v : Cfg) (s : State) : (State.setCfg v s).mem = s.mem := rfl
@[simp] theorem State.setCfg_res (v : Cfg) (s : State) : (State.setCfg v s).res = s.res := rfl
@[simp] theorem State.setCfg_cfg (v : Cfg) (s : State) : (State.setCfg v s).cfg = v := rfl
@[simp] theorem State.setCfg_build (v : Cfg) (s : State) : (State.setCfg v s).build = s.build := rfl
@[simp] theorem State.setCfg_pending (v : Cfg) (s : State) : (State.setCfg v s).pending = s.pending := rfl
@[simp] theorem State.setCfg_link (v : Cfg) (s : State) : (State.setCfg v s).link = s.link := rfl
@[simp] theorem State.setCfg_trace (v : Cfg) (s : State) : (State.setCfg v s).trace = s.trace := rfl
@[simp] theorem State.setCfg_hostRes (v : Cfg) (s : State) : (State.setCfg v s).hostRes = s.hostRes := rfl
@[simp] theorem State.setCfg_resetInput (v : Cfg) (s : State) : (State.setCfg v s).resetInput = s.resetInput := rfl
@[simp] theorem State.setCfg_hangIn (v : Cfg) (s : State) : (State.setCfg v s).hangIn = s.hangIn := rfl

/-! ## `State.setPending` -/

@[simp] theorem State.setPending_cmdState (v : List Request) (s : State) : (State.setPending v s).cmdState = s.cmdState := rfl
@[simp] theorem State.setPending_toggle (v : List Request) (s : State) : (State.setPending v s).toggle = s.toggle := rfl
@[simp] theorem State.setPending_linkOpen (v : List Request) (s : State) : (State.setPending v s).linkOpen = s.linkOpen := rfl
@[simp] theorem State.setPending_savedParams (v : List Request) (s : State) : (State.setPending v s).savedParams = s.savedParams := rfl
@[simp] theorem State.setPending_tx (v : List Request) (s : State) : (State.setPending v s).tx = s.tx := rfl
@[simp] theorem State.setPending_bt (v : List Request) (s : State) : (State.setPending v s).bt = s.bt := rfl
@[simp] theorem State.setPending_mem (v : List Request) (s : State) : (State.setPending v s).mem = s.mem := rfl
@[simp] theorem State.setPending_res (v : List Request) (s : State) : (State.setPending v s).res = s.res := rfl
@[simp] theorem State.setPending_cfg (v : List Request) (s : State) : (State.setPending v s).cfg = s.cfg := rfl
@[simp] theorem State.setPending_build (v : List Request) (s : State) : (State.setPending v s).build = s.build := rfl
@[simp] theorem State.setPending_pending (v : List Request) (s : State) : (State.setPending v s).pending = v := rfl
@[simp] theorem State.setPending_link (v : List Request) (s : State) : (State.setPending v s).link = s.link := rfl
@[simp] theorem State.setPending_trace (v : List Request) (s : State) : (State.setPending v s).trace = s.trace := rfl
@[simp] theorem State.setPending_hostRes (v : List Request) (s : State) : (State.setPending v s).hostRes = s.hostRes := rfl
@[simp] theorem State.setPending_resetInput (v : List Request) (s : State) : (State.setPending v s).resetInput = s.resetInput := rfl
@[simp] theorem State.setPending_hangIn (v : List Request) (s : State) : (State.setPending v s).hangIn = s.hangIn := rfl

/-! ## `State.setLink` -/

@[simp] theorem State.setLink_cmdState (v : LinkScript) (s : State) : (State.setLink v s).cmdState = s.cmdState := rfl
@[simp] theorem State.setLink_toggle (v : LinkScript) (s : State) : (State.setLink v s).toggle = s.toggle := rfl
@[simp] theorem State.setLink_linkOpen (v : LinkScript) (s : State) : (State.setLink v s).linkOpen = s.linkOpen := rfl
@[simp] theorem State.setLink_savedParams (v : LinkScript) (s : State) : (State.setLink v s).savedParams = s.savedParams := rfl
@[simp] theorem State.setLink_tx (v : LinkScript) (s : State) : (State.setLink v s).tx = s.tx := rfl
@[simp] theorem State.setLink_bt (v : LinkScript) (s : State) : (State.setLink v s).bt = s.bt := rfl
@[simp] theorem State.setLink_mem (v : LinkScript) (s : State) : (State.setLink v s).mem = s.mem := rfl
@[simp] theorem State.setLink_res (v : LinkScript) (s : State) : (State.setLink v s).res = s.res := rfl
@[simp] theorem State.setLink_cfg (v : LinkScript) (s : State) : (State.setLink v s).cfg = s.cfg := rfl
@[simp] theorem State.setLink_build (v : LinkScript) (s : State) : (State.setLink v s).build = s.build := rfl
@[simp] theorem State.setLink_pending (v : LinkScript) (s : State) : (State.setLink v s).pending = s.pending := rfl
@[simp] theorem State.setLink_link (v : LinkScript) (s : State) : (State.setLink v s).link = v := rfl
@[simp] theorem State.setLink_trace (v : LinkScript) (s : State) : (State.setLink v s).trace = s.trace := rfl
@[simp] theorem State.setLink_hostRes (v : LinkScript) (s : State) : (State.setLink v s).hostRes = s.hostRes := rfl
@[simp] theorem State.setLink_resetInput (v : LinkScript) (s : State) : (State.setLink v s).resetInput = s.resetInput := rfl
@[simp] theorem State.setLink_hangIn (v : LinkScript) (s : State) : (State.setLink v s).hangIn = s.hangIn := rfl

/-! ## `State.setTrace` -/

@[simp] theorem State.setTrace_cmdState (v : List Event) (s : State) : (State.setTrace v s).cmdState = s.cmdState := rfl
@[simp] theorem State.setTrace_toggle (v : List Event) (s : State) : (State.setTrace v s).toggle = s.toggle := rfl
@[simp] theorem State.setTrace_linkOpen (v : List Event) (s : State) : (State.setTrace v s).linkOpen = s.linkOpen := rfl
@[simp] theorem State.setTrace_savedParams (v : List Event) (s : State) : (State.setTrace v s).savedParams = s.savedParams := rfl
@[simp] theorem State.setTrace_tx (v : List Event) (s : State) : (State.setTrace v s).tx = s.tx := rfl
@[simp] theorem State.setTrace_bt (v : List Event) (s : State) : (State.setTrace v s).bt = s.bt := rfl
@[simp] theorem State.setTrace_mem (v : List Event) (s : State) : (State.setTrace v s).mem = s.mem := rfl
@[simp] theorem State.setTrace_res (v : List Event) (s : State) : (State.setTrace v s).res = s.res := rfl
@[simp] theorem State.setTrace_cfg (v : List Event) (s : State) : (State.setTrace v s).cfg = s.cfg := rfl
@[simp] theorem State.setTrace_build (v : List Event) (s : State) : (State.setTrace v s).build = s.build := rfl
@[simp] theorem State.setTrace_pending (v : List Event) (s : State) : (State.setTrace v s).pending = s.pending := rfl
@[simp] theorem State.setTrace_link (v : List Event) (s : State) : (State.setTrace v s).link = s.link := rfl
@[simp] theorem State.setTrace_trace (v : List Event) (s : State) : (State.setTrace v s).trace = v := rfl
@[simp] theorem State.setTrace_hostRes (v : List Event) (s : State) : (State.setTrace v s).hostRes = s.hostRes := rfl
@[simp] theorem State.setTrace_resetInput (v : List Event) (s : State) : (State.setTrace v s).resetInput = s.resetInput := rfl
@[simp] theorem State.setTrace_hangIn (v : List Event) (s : State) : (State.setTrace v s).hangIn = s.hangIn := rfl

/-! ## `State.setHostRes` -/

@[simp] theorem State.setHostRes_cmdState (v : Option HostResult) (s : State) : (State.setHostRes v s).cmdState = s.cmdState := rfl
@[simp] theorem State.setHostRes_toggle (v : Option HostResult) (s : State) : (State.setHostRes v s).toggle = s.toggle := rfl
@[simp] theorem State.setHostRes_linkOpen (v : Option HostResult) (s : State) : (State.setHostRes v s).linkOpen = s.linkOpen := rfl
@[simp] theorem State.setHostRes_savedParams (v : Option HostResult) (s : State) : (State.setHostRes v s).savedParams = s.savedParams := rfl
@[simp] theorem State.setHostRes_tx (v : Option HostResult) (s : State) : (State.setHostRes v s).tx = s.tx := rfl
@[simp] theorem State.setHostRes_bt (v : Option HostResult) (s : State) : (State.setHostRes v s).bt = s.bt := rfl
@[simp] theorem State.setHostRes_mem (v : Option HostResult) (s : State) : (State.setHostRes v s).mem = s.mem := rfl
@[simp] theorem State.setHostRes_res (v : Option HostResult) (s : State) : (State.setHostRes v s).res = s.res := rfl
@[simp] theorem State.setHostRes_cfg (v : Option HostResult) (s : State) : (State.setHostRes v s).cfg = s.cfg := rfl
@[simp] theorem State.setHostRes_build (v : Option HostResult) (s : State) : (State.setHostRes v s).build = s.build := rfl
@[simp] theorem State.setHostRes_pending (v : Option HostResult) (s : State) : (State.setHostRes v s).pending = s.pending := rfl
@[simp] theorem State.setHostRes_link (v : Option HostResult) (s : State) : (State.setHostRes v s).link = s.link := rfl
@[simp] theorem State.setHostRes_trace (v : Option HostResult) (s : State) : (State.setHostRes v s).trace = s.trace := rfl
@[simp] theorem State.setHostRes_hostRes (v : Option HostResult) (s : State) : (State.setHostRes v s).hostRes = v := rfl
@[simp] theorem State.setHostRes_resetInput (v : Option HostResult) (s : State) : (State.setHostRes v s).resetInput = s.resetInput := rfl
@[simp] theorem State.setHostRes_hangIn (v : Option HostResult) (s : State) : (State.setHostRes v s).hangIn = s.hangIn := rfl

/-! ## `State.setResetInput` -/

@[simp] theorem State.setResetInput_cmdState (v : ResetInput) (s : State) : (State.setResetInput v s).cmdState = s.cmdState := rfl
@[simp] theorem State.setResetInput_toggle (v : ResetInput) (s : State) : (State.setResetInput v s).toggle = s.toggle := rfl
@[simp] theorem State.setResetInput_linkOpen (v : ResetInput) (s : State) : (State.setResetInput v s).linkOpen = s.linkOpen := rfl
@[simp] theorem State.setResetInput_savedParams (v : ResetInput) (s : State) : (State.setResetInput v s).savedParams = s.savedParams := rfl
@[simp] theorem State.setResetInput_tx (v : ResetInput) (s : State) : (State.setResetInput v s).tx = s.tx := rfl
@[simp] theorem State.setResetInput_bt (v : ResetInput) (s : State) : (State.setResetInput v s).bt = s.bt := rfl
@[simp] theorem State.setResetInput_mem (v : ResetInput) (s : State) : (State.setResetInput v s).mem = s.mem := rfl
@[simp] theorem State.setResetInput_res (v : ResetInput) (s : State) : (State.setResetInput v s).res = s.res := rfl
@[simp] theorem State.setResetInput_cfg (v : ResetInput) (s : State) : (State.setResetInput v s).cfg = s.cfg := rfl
@[simp] theorem State.setResetInput_build (v : ResetInput) (s : State) : (State.setResetInput v s).build = s.build := rfl
@[simp] theorem State.setResetInput_pending (v : ResetInput) (s : State) : (State.setResetInput v s).pending = s.pending := rfl
@[simp] theorem State.setResetInput_link (v : ResetInput) (s : State) : (State.setResetInput v s).link = s.link := rfl
@[simp] theorem State.setResetInput_trace (v : ResetInput) (s : State) : (State.setResetInput v s).trace = s.trace := rfl
@[simp] theorem State.setResetInput_hostRes (v : ResetInput) (s : State) : (State.setResetInput v s).hostRes = s.hostRes := rfl
@[simp] theorem State.setResetInput_resetInput (v : ResetInput) (s : State) : (State.setResetInput v s).resetInput = v := rfl
@[simp] theorem State.setResetInput_hangIn (v : ResetInput) (s : State) : (State.setResetInput v s).hangIn = s.hangIn := rfl

/-! ## `State.setHangIn` -/

@[simp] theorem State.setHangIn_cmdState (v : Option Nat) (s : State) : (State.setHangIn v s).cmdState = s.cmdState := rfl
@[simp] theorem State.setHangIn_toggle (v : Option Nat) (s : State) : (State.setHangIn v s).toggle = s.toggle := rfl
@[simp] theorem State.setHangIn_linkOpen (v : Option Nat) (s : State) : (State.setHangIn v s).linkOpen = s.linkOpen := rfl
@[simp] theorem State.setHangIn_savedParams (v : Option Nat) (s : State) : (State.setHangIn v s).savedParams = s.savedParams := rfl
@[simp] theorem State.setHangIn_tx (v : Option Nat) (s : State) : (State.setHangIn v s).tx = s.tx := rfl
@[simp] theorem State.setHangIn_bt (v : Option Nat) (s : State) : (State.setHangIn v s).bt = s.bt := rfl
@[simp] theorem State.setHangIn_mem (v : Option Nat) (s : State) : (State.setHangIn v s).mem = s.mem := rfl
@[simp] theorem State.setHangIn_res (v : Option Nat) (s : State) : (State.setHangIn v s).res = s.res := rfl
@[simp] theorem State.setHangIn_cfg (v : Option Nat) (s : State) : (State.setHangIn v s).cfg = s.cfg := rfl
@[simp] theorem State.setHangIn_build (v : Option Nat) (s : State) : (State.setHangIn v s).build = s.build := rfl
@[simp] theorem State.setHangIn_pending (v : Option Nat) (s : State) : (State.setHangIn v s).pending = s.pending := rfl
@[simp] theorem State.setHangIn_link (v : Option Nat) (s : State) : (State.setHangIn v s).link = s.link := rfl
@[simp] theorem State.setHangIn_trace (v : Option Nat) (s : State) : (State.setHangIn v s).trace = s.trace := rfl
@[simp] theorem State.setHangIn_hostRes (v : Option Nat) (s : State) : (State.setHangIn v s).hostRes = s.hostRes := rfl
@[simp] theorem State.setHangIn_resetInput (v : Option Nat) (s : State) : (State.setHangIn v s).resetInput = s.resetInput := rfl
@[simp] theorem State.setHangIn_hangIn (v : Option Nat) (s : State) : (State.setHangIn v s).hangIn = v := rfl

/-! ## Equality -/

/-- Two states with equal fields are equal. -/
theorem State.eq_of_fields {s t : State} 
    (h1 : s.cmdState = t.cmdState) (h2 : s.toggle = t.toggle) (h3 : s.linkOpen = t.linkOpen)
    (h4 : s.savedParams = t.savedParams) (h5 : s.tx = t.tx) (h6 : s.bt = t.bt) (h7 : s.mem = t.mem)
    (h8 : s.res = t.res) (h9 : s.cfg = t.cfg) (h10 : s.build = t.build) (h11 : s.pending = t.pending)
    (h12 : s.link = t.link) (h13 : s.trace = t.trace) (h14 : s.hostRes = t.hostRes) (h15 : s.resetInput = t.resetInput)
    (h16 : s.hangIn = t.hangIn) :
    s = t := by
  cases s; cases t; simp_all

end Sys2Proof.Machine
end

