-- ==== Sys2Proof/Laws/Ops.lean ====
section
/-! SUPPORT. The named operations, field by field: what each leaves and what it writes. -/

namespace Sys2Proof.Machine

/-! ## `note` -/

@[simp] theorem note_cmdState (e : Event) (s : State) : (note e s).cmdState = s.cmdState := rfl
@[simp] theorem note_toggle (e : Event) (s : State) : (note e s).toggle = s.toggle := rfl
@[simp] theorem note_linkOpen (e : Event) (s : State) : (note e s).linkOpen = s.linkOpen := rfl
@[simp] theorem note_savedParams (e : Event) (s : State) : (note e s).savedParams = s.savedParams := rfl
@[simp] theorem note_tx (e : Event) (s : State) : (note e s).tx = s.tx := rfl
@[simp] theorem note_bt (e : Event) (s : State) : (note e s).bt = s.bt := rfl
@[simp] theorem note_mem (e : Event) (s : State) : (note e s).mem = s.mem := rfl
@[simp] theorem note_res (e : Event) (s : State) : (note e s).res = s.res := rfl
@[simp] theorem note_cfg (e : Event) (s : State) : (note e s).cfg = s.cfg := rfl
@[simp] theorem note_build (e : Event) (s : State) : (note e s).build = s.build := rfl
@[simp] theorem note_pending (e : Event) (s : State) : (note e s).pending = s.pending := rfl
@[simp] theorem note_link (e : Event) (s : State) : (note e s).link = s.link.advance e := rfl
@[simp] theorem note_trace (e : Event) (s : State) : (note e s).trace = s.trace ++ [e] := rfl
@[simp] theorem note_hostRes (e : Event) (s : State) : (note e s).hostRes = s.hostRes := rfl
@[simp] theorem note_resetInput (e : Event) (s : State) : (note e s).resetInput = s.resetInput := rfl
@[simp] theorem note_hangIn (e : Event) (s : State) : (note e s).hangIn = s.hangIn := rfl

/-! ## `openLink` -/

@[simp] theorem openLink_cmdState (p : Bytes) (s : State) : (openLink p s).cmdState = s.cmdState := rfl
@[simp] theorem openLink_toggle (p : Bytes) (s : State) : (openLink p s).toggle = s.toggle := rfl
@[simp] theorem openLink_linkOpen (p : Bytes) (s : State) : (openLink p s).linkOpen = openAnswer s := rfl
@[simp] theorem openLink_savedParams (p : Bytes) (s : State) : (openLink p s).savedParams = s.savedParams := rfl
@[simp] theorem openLink_tx (p : Bytes) (s : State) : (openLink p s).tx = s.tx := rfl
@[simp] theorem openLink_bt (p : Bytes) (s : State) : (openLink p s).bt = s.bt := rfl
@[simp] theorem openLink_mem (p : Bytes) (s : State) : (openLink p s).mem = s.mem := rfl
@[simp] theorem openLink_res (p : Bytes) (s : State) : (openLink p s).res = s.res := rfl
@[simp] theorem openLink_cfg (p : Bytes) (s : State) : (openLink p s).cfg = s.cfg := rfl
@[simp] theorem openLink_build (p : Bytes) (s : State) : (openLink p s).build = s.build := rfl
@[simp] theorem openLink_pending (p : Bytes) (s : State) : (openLink p s).pending = s.pending := rfl
@[simp] theorem openLink_link (p : Bytes) (s : State) : (openLink p s).link = { s.link with opens := s.link.opens.tail } := rfl
@[simp] theorem openLink_trace (p : Bytes) (s : State) : (openLink p s).trace = s.trace ++ [.opened p (openAnswer s)] := rfl
@[simp] theorem openLink_hostRes (p : Bytes) (s : State) : (openLink p s).hostRes = s.hostRes := rfl
@[simp] theorem openLink_resetInput (p : Bytes) (s : State) : (openLink p s).resetInput = s.resetInput := rfl
@[simp] theorem openLink_hangIn (p : Bytes) (s : State) : (openLink p s).hangIn = s.hangIn := rfl

/-! ## `closeLink` -/

@[simp] theorem closeLink_cmdState (s : State) : (closeLink s).cmdState = s.cmdState := rfl
@[simp] theorem closeLink_toggle (s : State) : (closeLink s).toggle = s.toggle := rfl
@[simp] theorem closeLink_linkOpen (s : State) : (closeLink s).linkOpen = false := rfl
@[simp] theorem closeLink_savedParams (s : State) : (closeLink s).savedParams = s.savedParams := rfl
@[simp] theorem closeLink_tx (s : State) : (closeLink s).tx = s.tx := rfl
@[simp] theorem closeLink_bt (s : State) : (closeLink s).bt = s.bt := rfl
@[simp] theorem closeLink_mem (s : State) : (closeLink s).mem = s.mem := rfl
@[simp] theorem closeLink_res (s : State) : (closeLink s).res = s.res := rfl
@[simp] theorem closeLink_cfg (s : State) : (closeLink s).cfg = s.cfg := rfl
@[simp] theorem closeLink_build (s : State) : (closeLink s).build = s.build := rfl
@[simp] theorem closeLink_pending (s : State) : (closeLink s).pending = s.pending := rfl
@[simp] theorem closeLink_link (s : State) : (closeLink s).link = s.link := rfl
@[simp] theorem closeLink_trace (s : State) : (closeLink s).trace = s.trace ++ [.closed] := rfl
@[simp] theorem closeLink_hostRes (s : State) : (closeLink s).hostRes = s.hostRes := rfl
@[simp] theorem closeLink_resetInput (s : State) : (closeLink s).resetInput = s.resetInput := rfl
@[simp] theorem closeLink_hangIn (s : State) : (closeLink s).hangIn = s.hangIn := rfl

/-! ## `txWrite` -/

@[simp] theorem txWrite_cmdState (frame : Bytes) (s : State) : (txWrite frame s).cmdState = s.cmdState := rfl
@[simp] theorem txWrite_toggle (frame : Bytes) (s : State) : (txWrite frame s).toggle = s.toggle := rfl
@[simp] theorem txWrite_linkOpen (frame : Bytes) (s : State) : (txWrite frame s).linkOpen = s.linkOpen := rfl
@[simp] theorem txWrite_savedParams (frame : Bytes) (s : State) : (txWrite frame s).savedParams = s.savedParams := rfl
@[simp] theorem txWrite_tx (frame : Bytes) (s : State) : (txWrite frame s).tx = s.tx := rfl
@[simp] theorem txWrite_bt (frame : Bytes) (s : State) : (txWrite frame s).bt = s.bt := rfl
@[simp] theorem txWrite_mem (frame : Bytes) (s : State) : (txWrite frame s).mem = s.mem := rfl
@[simp] theorem txWrite_res (frame : Bytes) (s : State) : (txWrite frame s).res = s.res := rfl
@[simp] theorem txWrite_cfg (frame : Bytes) (s : State) : (txWrite frame s).cfg = s.cfg := rfl
@[simp] theorem txWrite_build (frame : Bytes) (s : State) : (txWrite frame s).build = s.build := rfl
@[simp] theorem txWrite_pending (frame : Bytes) (s : State) : (txWrite frame s).pending = s.pending := rfl
@[simp] theorem txWrite_link (frame : Bytes) (s : State) : (txWrite frame s).link = { s.link with writes := s.link.writes.tail } := rfl
@[simp] theorem txWrite_trace (frame : Bytes) (s : State) : (txWrite frame s).trace = s.trace ++ [.wrote frame (writeAnswer s)] := rfl
@[simp] theorem txWrite_hostRes (frame : Bytes) (s : State) : (txWrite frame s).hostRes = s.hostRes := rfl
@[simp] theorem txWrite_resetInput (frame : Bytes) (s : State) : (txWrite frame s).resetInput = s.resetInput := rfl
@[simp] theorem txWrite_hangIn (frame : Bytes) (s : State) : (txWrite frame s).hangIn = s.hangIn := rfl

/-! ## `rxRead` -/

@[simp] theorem rxRead_cmdState (ms : Half) (s : State) : (rxRead ms s).cmdState = s.cmdState := rfl
@[simp] theorem rxRead_toggle (ms : Half) (s : State) : (rxRead ms s).toggle = s.toggle := rfl
@[simp] theorem rxRead_linkOpen (ms : Half) (s : State) : (rxRead ms s).linkOpen = s.linkOpen := rfl
@[simp] theorem rxRead_savedParams (ms : Half) (s : State) : (rxRead ms s).savedParams = s.savedParams := rfl
@[simp] theorem rxRead_tx (ms : Half) (s : State) : (rxRead ms s).tx = { s.tx with rxBuf := (readAnswer s).bytes } := rfl
@[simp] theorem rxRead_bt (ms : Half) (s : State) : (rxRead ms s).bt = s.bt := rfl
@[simp] theorem rxRead_mem (ms : Half) (s : State) : (rxRead ms s).mem = s.mem := rfl
@[simp] theorem rxRead_res (ms : Half) (s : State) : (rxRead ms s).res = s.res := rfl
@[simp] theorem rxRead_cfg (ms : Half) (s : State) : (rxRead ms s).cfg = s.cfg := rfl
@[simp] theorem rxRead_build (ms : Half) (s : State) : (rxRead ms s).build = s.build := rfl
@[simp] theorem rxRead_pending (ms : Half) (s : State) : (rxRead ms s).pending = s.pending := rfl
@[simp] theorem rxRead_link (ms : Half) (s : State) : (rxRead ms s).link = { s.link with reads := s.link.reads.tail } := rfl
@[simp] theorem rxRead_trace (ms : Half) (s : State) : (rxRead ms s).trace = s.trace ++ [.received ms.toNat (readAnswer s)] := rfl
@[simp] theorem rxRead_hostRes (ms : Half) (s : State) : (rxRead ms s).hostRes = s.hostRes := rfl
@[simp] theorem rxRead_resetInput (ms : Half) (s : State) : (rxRead ms s).resetInput = s.resetInput := rfl
@[simp] theorem rxRead_hangIn (ms : Half) (s : State) : (rxRead ms s).hangIn = s.hangIn := rfl

/-! ## `delay` -/

@[simp] theorem delay_cmdState (ms : Nat) (s : State) : (delay ms s).cmdState = s.cmdState := rfl
@[simp] theorem delay_toggle (ms : Nat) (s : State) : (delay ms s).toggle = s.toggle := rfl
@[simp] theorem delay_linkOpen (ms : Nat) (s : State) : (delay ms s).linkOpen = s.linkOpen := rfl
@[simp] theorem delay_savedParams (ms : Nat) (s : State) : (delay ms s).savedParams = s.savedParams := rfl
@[simp] theorem delay_tx (ms : Nat) (s : State) : (delay ms s).tx = s.tx := rfl
@[simp] theorem delay_bt (ms : Nat) (s : State) : (delay ms s).bt = s.bt := rfl
@[simp] theorem delay_mem (ms : Nat) (s : State) : (delay ms s).mem = s.mem := rfl
@[simp] theorem delay_res (ms : Nat) (s : State) : (delay ms s).res = s.res := rfl
@[simp] theorem delay_cfg (ms : Nat) (s : State) : (delay ms s).cfg = s.cfg := rfl
@[simp] theorem delay_build (ms : Nat) (s : State) : (delay ms s).build = s.build := rfl
@[simp] theorem delay_pending (ms : Nat) (s : State) : (delay ms s).pending = s.pending := rfl
@[simp] theorem delay_link (ms : Nat) (s : State) : (delay ms s).link = s.link := rfl
@[simp] theorem delay_trace (ms : Nat) (s : State) : (delay ms s).trace = s.trace ++ [.delayed ms] := rfl
@[simp] theorem delay_hostRes (ms : Nat) (s : State) : (delay ms s).hostRes = s.hostRes := rfl
@[simp] theorem delay_resetInput (ms : Nat) (s : State) : (delay ms s).resetInput = s.resetInput := rfl
@[simp] theorem delay_hangIn (ms : Nat) (s : State) : (delay ms s).hangIn = s.hangIn := rfl

/-! ## `finishOk` -/

@[simp] theorem finishOk_cmdState (s : State) : (finishOk s).cmdState = s.cmdState := rfl
@[simp] theorem finishOk_toggle (s : State) : (finishOk s).toggle = s.toggle := rfl
@[simp] theorem finishOk_linkOpen (s : State) : (finishOk s).linkOpen = s.linkOpen := rfl
@[simp] theorem finishOk_savedParams (s : State) : (finishOk s).savedParams = s.savedParams := rfl
@[simp] theorem finishOk_tx (s : State) : (finishOk s).tx = s.tx := rfl
@[simp] theorem finishOk_bt (s : State) : (finishOk s).bt = s.bt := rfl
@[simp] theorem finishOk_mem (s : State) : (finishOk s).mem = s.mem := rfl
@[simp] theorem finishOk_res (s : State) : (finishOk s).res = { s.res with ok := true, err := .noErr } := rfl
@[simp] theorem finishOk_cfg (s : State) : (finishOk s).cfg = s.cfg := rfl
@[simp] theorem finishOk_build (s : State) : (finishOk s).build = s.build := rfl
@[simp] theorem finishOk_pending (s : State) : (finishOk s).pending = s.pending := rfl
@[simp] theorem finishOk_link (s : State) : (finishOk s).link = s.link := rfl
@[simp] theorem finishOk_trace (s : State) : (finishOk s).trace = s.trace := rfl
@[simp] theorem finishOk_hostRes (s : State) : (finishOk s).hostRes = s.hostRes := rfl
@[simp] theorem finishOk_resetInput (s : State) : (finishOk s).resetInput = s.resetInput := rfl
@[simp] theorem finishOk_hangIn (s : State) : (finishOk s).hangIn = s.hangIn := rfl

/-! ## `raiseError` -/

@[simp] theorem raiseError_cmdState (e : ErrCode) (s : State) : (raiseError e s).cmdState = s.cmdState := rfl
@[simp] theorem raiseError_toggle (e : ErrCode) (s : State) : (raiseError e s).toggle = s.toggle := rfl
@[simp] theorem raiseError_linkOpen (e : ErrCode) (s : State) : (raiseError e s).linkOpen = s.linkOpen := rfl
@[simp] theorem raiseError_savedParams (e : ErrCode) (s : State) : (raiseError e s).savedParams = s.savedParams := rfl
@[simp] theorem raiseError_tx (e : ErrCode) (s : State) : (raiseError e s).tx = s.tx := rfl
@[simp] theorem raiseError_bt (e : ErrCode) (s : State) : (raiseError e s).bt = s.bt := rfl
@[simp] theorem raiseError_mem (e : ErrCode) (s : State) : (raiseError e s).mem = s.mem := rfl
@[simp] theorem raiseError_res (e : ErrCode) (s : State) : (raiseError e s).res = { s.res with ok := false, err := e } := rfl
@[simp] theorem raiseError_cfg (e : ErrCode) (s : State) : (raiseError e s).cfg = s.cfg := rfl
@[simp] theorem raiseError_build (e : ErrCode) (s : State) : (raiseError e s).build = s.build := rfl
@[simp] theorem raiseError_pending (e : ErrCode) (s : State) : (raiseError e s).pending = s.pending := rfl
@[simp] theorem raiseError_link (e : ErrCode) (s : State) : (raiseError e s).link = s.link := rfl
@[simp] theorem raiseError_trace (e : ErrCode) (s : State) : (raiseError e s).trace = s.trace := rfl
@[simp] theorem raiseError_hostRes (e : ErrCode) (s : State) : (raiseError e s).hostRes = s.hostRes := rfl
@[simp] theorem raiseError_resetInput (e : ErrCode) (s : State) : (raiseError e s).resetInput = s.resetInput := rfl
@[simp] theorem raiseError_hangIn (e : ErrCode) (s : State) : (raiseError e s).hangIn = s.hangIn := rfl

/-! ## `setPayload` -/

@[simp] theorem setPayload_cmdState (p : Option Bytes) (s : State) : (setPayload p s).cmdState = s.cmdState := rfl
@[simp] theorem setPayload_toggle (p : Option Bytes) (s : State) : (setPayload p s).toggle = s.toggle := rfl
@[simp] theorem setPayload_linkOpen (p : Option Bytes) (s : State) : (setPayload p s).linkOpen = s.linkOpen := rfl
@[simp] theorem setPayload_savedParams (p : Option Bytes) (s : State) : (setPayload p s).savedParams = s.savedParams := rfl
@[simp] theorem setPayload_tx (p : Option Bytes) (s : State) : (setPayload p s).tx = s.tx := rfl
@[simp] theorem setPayload_bt (p : Option Bytes) (s : State) : (setPayload p s).bt = s.bt := rfl
@[simp] theorem setPayload_mem (p : Option Bytes) (s : State) : (setPayload p s).mem = s.mem := rfl
@[simp] theorem setPayload_res (p : Option Bytes) (s : State) : (setPayload p s).res = { s.res with payload := p } := rfl
@[simp] theorem setPayload_cfg (p : Option Bytes) (s : State) : (setPayload p s).cfg = s.cfg := rfl
@[simp] theorem setPayload_build (p : Option Bytes) (s : State) : (setPayload p s).build = s.build := rfl
@[simp] theorem setPayload_pending (p : Option Bytes) (s : State) : (setPayload p s).pending = s.pending := rfl
@[simp] theorem setPayload_link (p : Option Bytes) (s : State) : (setPayload p s).link = s.link := rfl
@[simp] theorem setPayload_trace (p : Option Bytes) (s : State) : (setPayload p s).trace = s.trace := rfl
@[simp] theorem setPayload_hostRes (p : Option Bytes) (s : State) : (setPayload p s).hostRes = s.hostRes := rfl
@[simp] theorem setPayload_resetInput (p : Option Bytes) (s : State) : (setPayload p s).resetInput = s.resetInput := rfl
@[simp] theorem setPayload_hangIn (p : Option Bytes) (s : State) : (setPayload p s).hangIn = s.hangIn := rfl

/-! ## `setValue` -/

@[simp] theorem setValue_cmdState (v : Word) (s : State) : (setValue v s).cmdState = s.cmdState := rfl
@[simp] theorem setValue_toggle (v : Word) (s : State) : (setValue v s).toggle = s.toggle := rfl
@[simp] theorem setValue_linkOpen (v : Word) (s : State) : (setValue v s).linkOpen = s.linkOpen := rfl
@[simp] theorem setValue_savedParams (v : Word) (s : State) : (setValue v s).savedParams = s.savedParams := rfl
@[simp] theorem setValue_tx (v : Word) (s : State) : (setValue v s).tx = s.tx := rfl
@[simp] theorem setValue_bt (v : Word) (s : State) : (setValue v s).bt = s.bt := rfl
@[simp] theorem setValue_mem (v : Word) (s : State) : (setValue v s).mem = s.mem := rfl
@[simp] theorem setValue_res (v : Word) (s : State) : (setValue v s).res = { s.res with value := v } := rfl
@[simp] theorem setValue_cfg (v : Word) (s : State) : (setValue v s).cfg = s.cfg := rfl
@[simp] theorem setValue_build (v : Word) (s : State) : (setValue v s).build = s.build := rfl
@[simp] theorem setValue_pending (v : Word) (s : State) : (setValue v s).pending = s.pending := rfl
@[simp] theorem setValue_link (v : Word) (s : State) : (setValue v s).link = s.link := rfl
@[simp] theorem setValue_trace (v : Word) (s : State) : (setValue v s).trace = s.trace := rfl
@[simp] theorem setValue_hostRes (v : Word) (s : State) : (setValue v s).hostRes = s.hostRes := rfl
@[simp] theorem setValue_resetInput (v : Word) (s : State) : (setValue v s).resetInput = s.resetInput := rfl
@[simp] theorem setValue_hangIn (v : Word) (s : State) : (setValue v s).hangIn = s.hangIn := rfl

/-! ## `accept` -/

@[simp] theorem accept_cmdState (s : State) : (accept s).cmdState = .busy := rfl
@[simp] theorem accept_toggle (s : State) : (accept s).toggle = s.toggle := rfl
@[simp] theorem accept_linkOpen (s : State) : (accept s).linkOpen = s.linkOpen := rfl
@[simp] theorem accept_savedParams (s : State) : (accept s).savedParams = s.savedParams := rfl
@[simp] theorem accept_tx (s : State) : (accept s).tx = s.tx := rfl
@[simp] theorem accept_bt (s : State) : (accept s).bt = s.bt := rfl
@[simp] theorem accept_mem (s : State) : (accept s).mem = s.mem := rfl
@[simp] theorem accept_res (s : State) : (accept s).res = s.res := rfl
@[simp] theorem accept_cfg (s : State) : (accept s).cfg = s.cfg := rfl
@[simp] theorem accept_build (s : State) : (accept s).build = s.build := rfl
@[simp] theorem accept_pending (s : State) : (accept s).pending = s.pending := rfl
@[simp] theorem accept_link (s : State) : (accept s).link = s.link := rfl
@[simp] theorem accept_trace (s : State) : (accept s).trace = s.trace := rfl
@[simp] theorem accept_hostRes (s : State) : (accept s).hostRes = s.hostRes := rfl
@[simp] theorem accept_resetInput (s : State) : (accept s).resetInput = s.resetInput := rfl
@[simp] theorem accept_hangIn (s : State) : (accept s).hangIn = s.hangIn := rfl

/-! ## `respond` -/

@[simp] theorem respond_cmdState (s : State) : (respond s).cmdState = .idle := rfl
@[simp] theorem respond_toggle (s : State) : (respond s).toggle = s.toggle := rfl
@[simp] theorem respond_linkOpen (s : State) : (respond s).linkOpen = s.linkOpen := rfl
@[simp] theorem respond_savedParams (s : State) : (respond s).savedParams = s.savedParams := rfl
@[simp] theorem respond_tx (s : State) : (respond s).tx = s.tx := rfl
@[simp] theorem respond_bt (s : State) : (respond s).bt = s.bt := rfl
@[simp] theorem respond_mem (s : State) : (respond s).mem = s.mem := rfl
@[simp] theorem respond_res (s : State) : (respond s).res = s.res := rfl
@[simp] theorem respond_cfg (s : State) : (respond s).cfg = s.cfg := rfl
@[simp] theorem respond_build (s : State) : (respond s).build = s.build := rfl
@[simp] theorem respond_pending (s : State) : (respond s).pending = s.pending := rfl
@[simp] theorem respond_link (s : State) : (respond s).link = s.link := rfl
@[simp] theorem respond_trace (s : State) : (respond s).trace = s.trace ++ [.response (responseOf s.res)] := rfl
@[simp] theorem respond_hostRes (s : State) : (respond s).hostRes = s.hostRes := rfl
@[simp] theorem respond_resetInput (s : State) : (respond s).resetInput = s.resetInput := rfl
@[simp] theorem respond_hangIn (s : State) : (respond s).hangIn = s.hangIn := rfl

/-! ## `enterTx` -/

@[simp] theorem enterTx_cmdState (st : TxState) (s : State) : (enterTx st s).cmdState = s.cmdState := rfl
@[simp] theorem enterTx_toggle (st : TxState) (s : State) : (enterTx st s).toggle = s.toggle := rfl
@[simp] theorem enterTx_linkOpen (st : TxState) (s : State) : (enterTx st s).linkOpen = s.linkOpen := rfl
@[simp] theorem enterTx_savedParams (st : TxState) (s : State) : (enterTx st s).savedParams = s.savedParams := rfl
@[simp] theorem enterTx_tx (st : TxState) (s : State) : (enterTx st s).tx = { s.tx with state := st } := rfl
@[simp] theorem enterTx_bt (st : TxState) (s : State) : (enterTx st s).bt = s.bt := rfl
@[simp] theorem enterTx_mem (st : TxState) (s : State) : (enterTx st s).mem = s.mem := rfl
@[simp] theorem enterTx_res (st : TxState) (s : State) : (enterTx st s).res = s.res := rfl
@[simp] theorem enterTx_cfg (st : TxState) (s : State) : (enterTx st s).cfg = s.cfg := rfl
@[simp] theorem enterTx_build (st : TxState) (s : State) : (enterTx st s).build = s.build := rfl
@[simp] theorem enterTx_pending (st : TxState) (s : State) : (enterTx st s).pending = s.pending := rfl
@[simp] theorem enterTx_link (st : TxState) (s : State) : (enterTx st s).link = s.link := rfl
@[simp] theorem enterTx_trace (st : TxState) (s : State) : (enterTx st s).trace = s.trace := rfl
@[simp] theorem enterTx_hostRes (st : TxState) (s : State) : (enterTx st s).hostRes = s.hostRes := rfl
@[simp] theorem enterTx_resetInput (st : TxState) (s : State) : (enterTx st s).resetInput = s.resetInput := rfl
@[simp] theorem enterTx_hangIn (st : TxState) (s : State) : (enterTx st s).hangIn = s.hangIn := rfl

/-! ## `enterBt` -/

@[simp] theorem enterBt_cmdState (st : BtState) (s : State) : (enterBt st s).cmdState = s.cmdState := rfl
@[simp] theorem enterBt_toggle (st : BtState) (s : State) : (enterBt st s).toggle = s.toggle := rfl
@[simp] theorem enterBt_linkOpen (st : BtState) (s : State) : (enterBt st s).linkOpen = s.linkOpen := rfl
@[simp] theorem enterBt_savedParams (st : BtState) (s : State) : (enterBt st s).savedParams = s.savedParams := rfl
@[simp] theorem enterBt_tx (st : BtState) (s : State) : (enterBt st s).tx = s.tx := rfl
@[simp] theorem enterBt_bt (st : BtState) (s : State) : (enterBt st s).bt = { s.bt with state := st } := rfl
@[simp] theorem enterBt_mem (st : BtState) (s : State) : (enterBt st s).mem = s.mem := rfl
@[simp] theorem enterBt_res (st : BtState) (s : State) : (enterBt st s).res = s.res := rfl
@[simp] theorem enterBt_cfg (st : BtState) (s : State) : (enterBt st s).cfg = s.cfg := rfl
@[simp] theorem enterBt_build (st : BtState) (s : State) : (enterBt st s).build = s.build := rfl
@[simp] theorem enterBt_pending (st : BtState) (s : State) : (enterBt st s).pending = s.pending := rfl
@[simp] theorem enterBt_link (st : BtState) (s : State) : (enterBt st s).link = s.link := rfl
@[simp] theorem enterBt_trace (st : BtState) (s : State) : (enterBt st s).trace = s.trace := rfl
@[simp] theorem enterBt_hostRes (st : BtState) (s : State) : (enterBt st s).hostRes = s.hostRes := rfl
@[simp] theorem enterBt_resetInput (st : BtState) (s : State) : (enterBt st s).resetInput = s.resetInput := rfl
@[simp] theorem enterBt_hangIn (st : BtState) (s : State) : (enterBt st s).hangIn = s.hangIn := rfl

/-! ## `failExchange` -/

@[simp] theorem failExchange_cmdState (e : ErrCode) (s : State) : (failExchange e s).cmdState = s.cmdState := rfl
@[simp] theorem failExchange_toggle (e : ErrCode) (s : State) : (failExchange e s).toggle = s.toggle := rfl
@[simp] theorem failExchange_linkOpen (e : ErrCode) (s : State) : (failExchange e s).linkOpen = s.linkOpen := rfl
@[simp] theorem failExchange_savedParams (e : ErrCode) (s : State) : (failExchange e s).savedParams = s.savedParams := rfl
@[simp] theorem failExchange_tx (e : ErrCode) (s : State) : (failExchange e s).tx = { s.tx with state := .failed, ok := false, err := e, payload := none } := rfl
@[simp] theorem failExchange_bt (e : ErrCode) (s : State) : (failExchange e s).bt = s.bt := rfl
@[simp] theorem failExchange_mem (e : ErrCode) (s : State) : (failExchange e s).mem = s.mem := rfl
@[simp] theorem failExchange_res (e : ErrCode) (s : State) : (failExchange e s).res = s.res := rfl
@[simp] theorem failExchange_cfg (e : ErrCode) (s : State) : (failExchange e s).cfg = s.cfg := rfl
@[simp] theorem failExchange_build (e : ErrCode) (s : State) : (failExchange e s).build = s.build := rfl
@[simp] theorem failExchange_pending (e : ErrCode) (s : State) : (failExchange e s).pending = s.pending := rfl
@[simp] theorem failExchange_link (e : ErrCode) (s : State) : (failExchange e s).link = s.link := rfl
@[simp] theorem failExchange_trace (e : ErrCode) (s : State) : (failExchange e s).trace = s.trace := rfl
@[simp] theorem failExchange_hostRes (e : ErrCode) (s : State) : (failExchange e s).hostRes = s.hostRes := rfl
@[simp] theorem failExchange_resetInput (e : ErrCode) (s : State) : (failExchange e s).resetInput = s.resetInput := rfl
@[simp] theorem failExchange_hangIn (e : ErrCode) (s : State) : (failExchange e s).hangIn = s.hangIn := rfl

/-! ## `succExchange` -/

@[simp] theorem succExchange_cmdState (p : Option Bytes) (s : State) : (succExchange p s).cmdState = s.cmdState := rfl
@[simp] theorem succExchange_toggle (p : Option Bytes) (s : State) : (succExchange p s).toggle = s.toggle := rfl
@[simp] theorem succExchange_linkOpen (p : Option Bytes) (s : State) : (succExchange p s).linkOpen = s.linkOpen := rfl
@[simp] theorem succExchange_savedParams (p : Option Bytes) (s : State) : (succExchange p s).savedParams = s.savedParams := rfl
@[simp] theorem succExchange_tx (p : Option Bytes) (s : State) : (succExchange p s).tx = { s.tx with state := .success, ok := true, err := .noErr, payload := p } := rfl
@[simp] theorem succExchange_bt (p : Option Bytes) (s : State) : (succExchange p s).bt = s.bt := rfl
@[simp] theorem succExchange_mem (p : Option Bytes) (s : State) : (succExchange p s).mem = s.mem := rfl
@[simp] theorem succExchange_res (p : Option Bytes) (s : State) : (succExchange p s).res = s.res := rfl
@[simp] theorem succExchange_cfg (p : Option Bytes) (s : State) : (succExchange p s).cfg = s.cfg := rfl
@[simp] theorem succExchange_build (p : Option Bytes) (s : State) : (succExchange p s).build = s.build := rfl
@[simp] theorem succExchange_pending (p : Option Bytes) (s : State) : (succExchange p s).pending = s.pending := rfl
@[simp] theorem succExchange_link (p : Option Bytes) (s : State) : (succExchange p s).link = s.link := rfl
@[simp] theorem succExchange_trace (p : Option Bytes) (s : State) : (succExchange p s).trace = s.trace := rfl
@[simp] theorem succExchange_hostRes (p : Option Bytes) (s : State) : (succExchange p s).hostRes = s.hostRes := rfl
@[simp] theorem succExchange_resetInput (p : Option Bytes) (s : State) : (succExchange p s).resetInput = s.resetInput := rfl
@[simp] theorem succExchange_hangIn (p : Option Bytes) (s : State) : (succExchange p s).hangIn = s.hangIn := rfl

/-! ## `takeExchangeResult` -/

@[simp] theorem takeExchangeResult_cmdState (s : State) : (takeExchangeResult s).cmdState = s.cmdState := rfl
@[simp] theorem takeExchangeResult_toggle (s : State) : (takeExchangeResult s).toggle = s.toggle := rfl
@[simp] theorem takeExchangeResult_linkOpen (s : State) : (takeExchangeResult s).linkOpen = s.linkOpen := rfl
@[simp] theorem takeExchangeResult_savedParams (s : State) : (takeExchangeResult s).savedParams = s.savedParams := rfl
@[simp] theorem takeExchangeResult_tx (s : State) : (takeExchangeResult s).tx = s.tx := rfl
@[simp] theorem takeExchangeResult_bt (s : State) : (takeExchangeResult s).bt = s.bt := rfl
@[simp] theorem takeExchangeResult_mem (s : State) : (takeExchangeResult s).mem = s.mem := rfl
@[simp] theorem takeExchangeResult_res (s : State) : (takeExchangeResult s).res = { s.res with ok := s.tx.ok, err := s.tx.err, payload := s.tx.payload } := rfl
@[simp] theorem takeExchangeResult_cfg (s : State) : (takeExchangeResult s).cfg = s.cfg := rfl
@[simp] theorem takeExchangeResult_build (s : State) : (takeExchangeResult s).build = s.build := rfl
@[simp] theorem takeExchangeResult_pending (s : State) : (takeExchangeResult s).pending = s.pending := rfl
@[simp] theorem takeExchangeResult_link (s : State) : (takeExchangeResult s).link = s.link := rfl
@[simp] theorem takeExchangeResult_trace (s : State) : (takeExchangeResult s).trace = s.trace := rfl
@[simp] theorem takeExchangeResult_hostRes (s : State) : (takeExchangeResult s).hostRes = s.hostRes := rfl
@[simp] theorem takeExchangeResult_resetInput (s : State) : (takeExchangeResult s).resetInput = s.resetInput := rfl
@[simp] theorem takeExchangeResult_hangIn (s : State) : (takeExchangeResult s).hangIn = s.hangIn := rfl

end Sys2Proof.Machine
end

