-- ==== Sys2Proof/Laws/Exchange.lean ====
section
/-! SUPPORT. One exchange: what each of its stages leaves, and how it ends. -/

namespace Sys2Proof.Machine

/-! ## The stages, field by field -/

@[simp] theorem encodeToggle_cmdState (opc : Byte) (params : Bytes) (s : State) :
    (encodeToggle opc params s).cmdState = s.cmdState := by
  unfold encodeToggle; split <;> rfl
@[simp] theorem encodeToggle_linkOpen (opc : Byte) (params : Bytes) (s : State) :
    (encodeToggle opc params s).linkOpen = s.linkOpen := by
  unfold encodeToggle; split <;> rfl
@[simp] theorem encodeToggle_savedParams (opc : Byte) (params : Bytes) (s : State) :
    (encodeToggle opc params s).savedParams = s.savedParams := by
  unfold encodeToggle; split <;> rfl
@[simp] theorem encodeToggle_tx (opc : Byte) (params : Bytes) (s : State) :
    (encodeToggle opc params s).tx = s.tx := by
  unfold encodeToggle; split <;> rfl
@[simp] theorem encodeToggle_bt (opc : Byte) (params : Bytes) (s : State) :
    (encodeToggle opc params s).bt = s.bt := by
  unfold encodeToggle; split <;> rfl
@[simp] theorem encodeToggle_mem (opc : Byte) (params : Bytes) (s : State) :
    (encodeToggle opc params s).mem = s.mem := by
  unfold encodeToggle; split <;> rfl
@[simp] theorem encodeToggle_res (opc : Byte) (params : Bytes) (s : State) :
    (encodeToggle opc params s).res = s.res := by
  unfold encodeToggle; split <;> rfl
@[simp] theorem encodeToggle_cfg (opc : Byte) (params : Bytes) (s : State) :
    (encodeToggle opc params s).cfg = s.cfg := by
  unfold encodeToggle; split <;> rfl
@[simp] theorem encodeToggle_build (opc : Byte) (params : Bytes) (s : State) :
    (encodeToggle opc params s).build = s.build := by
  unfold encodeToggle; split <;> rfl
@[simp] theorem encodeToggle_pending (opc : Byte) (params : Bytes) (s : State) :
    (encodeToggle opc params s).pending = s.pending := by
  unfold encodeToggle; split <;> rfl
@[simp] theorem encodeToggle_link (opc : Byte) (params : Bytes) (s : State) :
    (encodeToggle opc params s).link = s.link := by
  unfold encodeToggle; split <;> rfl
@[simp] theorem encodeToggle_trace (opc : Byte) (params : Bytes) (s : State) :
    (encodeToggle opc params s).trace = s.trace := by
  unfold encodeToggle; split <;> rfl
@[simp] theorem encodeToggle_hostRes (opc : Byte) (params : Bytes) (s : State) :
    (encodeToggle opc params s).hostRes = s.hostRes := by
  unfold encodeToggle; split <;> rfl
@[simp] theorem encodeToggle_resetInput (opc : Byte) (params : Bytes) (s : State) :
    (encodeToggle opc params s).resetInput = s.resetInput := by
  unfold encodeToggle; split <;> rfl
@[simp] theorem encodeToggle_hangIn (opc : Byte) (params : Bytes) (s : State) :
    (encodeToggle opc params s).hangIn = s.hangIn := by
  unfold encodeToggle; split <;> rfl

@[simp] theorem setValid_cmdState (v : Bool) (s : State) :
    (setValid v s).cmdState = s.cmdState := by
  rfl
@[simp] theorem setValid_toggle (v : Bool) (s : State) :
    (setValid v s).toggle = s.toggle := by
  rfl
@[simp] theorem setValid_linkOpen (v : Bool) (s : State) :
    (setValid v s).linkOpen = s.linkOpen := by
  rfl
@[simp] theorem setValid_savedParams (v : Bool) (s : State) :
    (setValid v s).savedParams = s.savedParams := by
  rfl
@[simp] theorem setValid_tx (v : Bool) (s : State) :
    (setValid v s).tx = s.tx := by
  rfl
@[simp] theorem setValid_bt (v : Bool) (s : State) :
    (setValid v s).bt = s.bt := by
  rfl
@[simp] theorem setValid_mem (v : Bool) (s : State) :
    (setValid v s).mem = s.mem := by
  rfl
@[simp] theorem setValid_cfg (v : Bool) (s : State) :
    (setValid v s).cfg = s.cfg := by
  rfl
@[simp] theorem setValid_build (v : Bool) (s : State) :
    (setValid v s).build = s.build := by
  rfl
@[simp] theorem setValid_pending (v : Bool) (s : State) :
    (setValid v s).pending = s.pending := by
  rfl
@[simp] theorem setValid_link (v : Bool) (s : State) :
    (setValid v s).link = s.link := by
  rfl
@[simp] theorem setValid_trace (v : Bool) (s : State) :
    (setValid v s).trace = s.trace := by
  rfl
@[simp] theorem setValid_hostRes (v : Bool) (s : State) :
    (setValid v s).hostRes = s.hostRes := by
  rfl
@[simp] theorem setValid_resetInput (v : Bool) (s : State) :
    (setValid v s).resetInput = s.resetInput := by
  rfl
@[simp] theorem setValid_hangIn (v : Bool) (s : State) :
    (setValid v s).hangIn = s.hangIn := by
  rfl

@[simp] theorem setValid_res (v : Bool) (s : State) : (setValid v s).res = { s.res with valid := v } := rfl
@[simp] theorem maybeDiag_cmdState (quiet : Bool) (p : Bytes) (s : State) :
    (maybeDiag quiet p s).cmdState = s.cmdState := rfl
@[simp] theorem maybeDiag_toggle (quiet : Bool) (p : Bytes) (s : State) :
    (maybeDiag quiet p s).toggle = s.toggle := rfl
@[simp] theorem maybeDiag_linkOpen (quiet : Bool) (p : Bytes) (s : State) :
    (maybeDiag quiet p s).linkOpen = s.linkOpen := rfl
@[simp] theorem maybeDiag_savedParams (quiet : Bool) (p : Bytes) (s : State) :
    (maybeDiag quiet p s).savedParams = s.savedParams := rfl
@[simp] theorem maybeDiag_tx (quiet : Bool) (p : Bytes) (s : State) :
    (maybeDiag quiet p s).tx = s.tx := rfl
@[simp] theorem maybeDiag_bt (quiet : Bool) (p : Bytes) (s : State) :
    (maybeDiag quiet p s).bt = s.bt := rfl
@[simp] theorem maybeDiag_mem (quiet : Bool) (p : Bytes) (s : State) :
    (maybeDiag quiet p s).mem = s.mem := rfl
@[simp] theorem maybeDiag_res (quiet : Bool) (p : Bytes) (s : State) :
    (maybeDiag quiet p s).res = s.res := rfl
@[simp] theorem maybeDiag_cfg (quiet : Bool) (p : Bytes) (s : State) :
    (maybeDiag quiet p s).cfg = s.cfg := rfl
@[simp] theorem maybeDiag_build (quiet : Bool) (p : Bytes) (s : State) :
    (maybeDiag quiet p s).build = s.build := rfl
@[simp] theorem maybeDiag_pending (quiet : Bool) (p : Bytes) (s : State) :
    (maybeDiag quiet p s).pending = s.pending := rfl
@[simp] theorem maybeDiag_hostRes (quiet : Bool) (p : Bytes) (s : State) :
    (maybeDiag quiet p s).hostRes = s.hostRes := rfl
@[simp] theorem maybeDiag_resetInput (quiet : Bool) (p : Bytes) (s : State) :
    (maybeDiag quiet p s).resetInput = s.resetInput := rfl
@[simp] theorem maybeDiag_hangIn (quiet : Bool) (p : Bytes) (s : State) :
    (maybeDiag quiet p s).hangIn = s.hangIn := rfl

/-- The diagnostic event takes no answer of the LINK. -/
@[simp] theorem maybeDiag_link (quiet : Bool) (p : Bytes) (s : State) : (maybeDiag quiet p s).link = s.link := rfl

theorem maybeDiag_trace (quiet : Bool) (p : Bytes) (s : State) :
    (maybeDiag quiet p s).trace = s.trace ∨ quiet = false ∧ (maybeDiag quiet p s).trace = s.trace ++ [.diag p] := by
  unfold maybeDiag diagEvents; cases quiet <;> split <;> simp_all

@[simp] theorem openSaved_cmdState (s : State) :
    (openSaved s).cmdState = s.cmdState := by
  unfold openSaved; split <;> rfl
@[simp] theorem openSaved_toggle (s : State) :
    (openSaved s).toggle = s.toggle := by
  unfold openSaved; split <;> rfl
@[simp] theorem openSaved_savedParams (s : State) :
    (openSaved s).savedParams = s.savedParams := by
  unfold openSaved; split <;> rfl
@[simp] theorem openSaved_tx (s : State) :
    (openSaved s).tx = s.tx := by
  unfold openSaved; split <;> rfl
@[simp] theorem openSaved_bt (s : State) :
    (openSaved s).bt = s.bt := by
  unfold openSaved; split <;> rfl
@[simp] theorem openSaved_mem (s : State) :
    (openSaved s).mem = s.mem := by
  unfold openSaved; split <;> rfl
@[simp] theorem openSaved_res (s : State) :
    (openSaved s).res = s.res := by
  unfold openSaved; split <;> rfl
@[simp] theorem openSaved_cfg (s : State) :
    (openSaved s).cfg = s.cfg := by
  unfold openSaved; split <;> rfl
@[simp] theorem openSaved_build (s : State) :
    (openSaved s).build = s.build := by
  unfold openSaved; split <;> rfl
@[simp] theorem openSaved_pending (s : State) :
    (openSaved s).pending = s.pending := by
  unfold openSaved; split <;> rfl
@[simp] theorem openSaved_hostRes (s : State) :
    (openSaved s).hostRes = s.hostRes := by
  unfold openSaved; split <;> rfl
@[simp] theorem openSaved_resetInput (s : State) :
    (openSaved s).resetInput = s.resetInput := by
  unfold openSaved; split <;> rfl
@[simp] theorem openSaved_hangIn (s : State) :
    (openSaved s).hangIn = s.hangIn := by
  unfold openSaved; split <;> rfl

@[simp] theorem reconnectToggle_cmdState (s : State) :
    (reconnectToggle s).cmdState = s.cmdState := by
  unfold reconnectToggle; split <;> rfl
@[simp] theorem reconnectToggle_linkOpen (s : State) :
    (reconnectToggle s).linkOpen = s.linkOpen := by
  unfold reconnectToggle; split <;> rfl
@[simp] theorem reconnectToggle_savedParams (s : State) :
    (reconnectToggle s).savedParams = s.savedParams := by
  unfold reconnectToggle; split <;> rfl
@[simp] theorem reconnectToggle_tx (s : State) :
    (reconnectToggle s).tx = s.tx := by
  unfold reconnectToggle; split <;> rfl
@[simp] theorem reconnectToggle_bt (s : State) :
    (reconnectToggle s).bt = s.bt := by
  unfold reconnectToggle; split <;> rfl
@[simp] theorem reconnectToggle_mem (s : State) :
    (reconnectToggle s).mem = s.mem := by
  unfold reconnectToggle; split <;> rfl
@[simp] theorem reconnectToggle_res (s : State) :
    (reconnectToggle s).res = s.res := by
  unfold reconnectToggle; split <;> rfl
@[simp] theorem reconnectToggle_cfg (s : State) :
    (reconnectToggle s).cfg = s.cfg := by
  unfold reconnectToggle; split <;> rfl
@[simp] theorem reconnectToggle_build (s : State) :
    (reconnectToggle s).build = s.build := by
  unfold reconnectToggle; split <;> rfl
@[simp] theorem reconnectToggle_pending (s : State) :
    (reconnectToggle s).pending = s.pending := by
  unfold reconnectToggle; split <;> rfl
@[simp] theorem reconnectToggle_link (s : State) :
    (reconnectToggle s).link = s.link := by
  unfold reconnectToggle; split <;> rfl
@[simp] theorem reconnectToggle_trace (s : State) :
    (reconnectToggle s).trace = s.trace := by
  unfold reconnectToggle; split <;> rfl
@[simp] theorem reconnectToggle_hostRes (s : State) :
    (reconnectToggle s).hostRes = s.hostRes := by
  unfold reconnectToggle; split <;> rfl
@[simp] theorem reconnectToggle_resetInput (s : State) :
    (reconnectToggle s).resetInput = s.resetInput := by
  unfold reconnectToggle; split <;> rfl
@[simp] theorem reconnectToggle_hangIn (s : State) :
    (reconnectToggle s).hangIn = s.hangIn := by
  unfold reconnectToggle; split <;> rfl

@[simp] theorem reconnect_cmdState (s : State) :
    (reconnect s).cmdState = s.cmdState := by
  simp [reconnect]
@[simp] theorem reconnect_savedParams (s : State) :
    (reconnect s).savedParams = s.savedParams := by
  simp [reconnect]
@[simp] theorem reconnect_bt (s : State) :
    (reconnect s).bt = s.bt := by
  simp [reconnect]
@[simp] theorem reconnect_mem (s : State) :
    (reconnect s).mem = s.mem := by
  simp [reconnect]
@[simp] theorem reconnect_res (s : State) :
    (reconnect s).res = s.res := by
  simp [reconnect]
@[simp] theorem reconnect_cfg (s : State) :
    (reconnect s).cfg = s.cfg := by
  simp [reconnect]
@[simp] theorem reconnect_build (s : State) :
    (reconnect s).build = s.build := by
  simp [reconnect]
@[simp] theorem reconnect_pending (s : State) :
    (reconnect s).pending = s.pending := by
  simp [reconnect]
@[simp] theorem reconnect_hostRes (s : State) :
    (reconnect s).hostRes = s.hostRes := by
  simp [reconnect]
@[simp] theorem reconnect_resetInput (s : State) :
    (reconnect s).resetInput = s.resetInput := by
  simp [reconnect]
@[simp] theorem reconnect_hangIn (s : State) :
    (reconnect s).hangIn = s.hangIn := by
  simp [reconnect]

@[simp] theorem checkReply_cmdState (rem : Bytes) (s : State) :
    (checkReply rem s).cmdState = s.cmdState := by
  unfold checkReply; dsimp only; split <;> [split <;> [skip; split]; skip] <;> simp
@[simp] theorem checkReply_toggle (rem : Bytes) (s : State) :
    (checkReply rem s).toggle = s.toggle := by
  unfold checkReply; dsimp only; split <;> [split <;> [skip; split]; skip] <;> simp
@[simp] theorem checkReply_linkOpen (rem : Bytes) (s : State) :
    (checkReply rem s).linkOpen = s.linkOpen := by
  unfold checkReply; dsimp only; split <;> [split <;> [skip; split]; skip] <;> simp
@[simp] theorem checkReply_savedParams (rem : Bytes) (s : State) :
    (checkReply rem s).savedParams = s.savedParams := by
  unfold checkReply; dsimp only; split <;> [split <;> [skip; split]; skip] <;> simp
@[simp] theorem checkReply_bt (rem : Bytes) (s : State) :
    (checkReply rem s).bt = s.bt := by
  unfold checkReply; dsimp only; split <;> [split <;> [skip; split]; skip] <;> simp
@[simp] theorem checkReply_mem (rem : Bytes) (s : State) :
    (checkReply rem s).mem = s.mem := by
  unfold checkReply; dsimp only; split <;> [split <;> [skip; split]; skip] <;> simp
@[simp] theorem checkReply_res (rem : Bytes) (s : State) :
    (checkReply rem s).res = s.res := by
  unfold checkReply; dsimp only; split <;> [split <;> [skip; split]; skip] <;> simp
@[simp] theorem checkReply_cfg (rem : Bytes) (s : State) :
    (checkReply rem s).cfg = s.cfg := by
  unfold checkReply; dsimp only; split <;> [split <;> [skip; split]; skip] <;> simp
@[simp] theorem checkReply_build (rem : Bytes) (s : State) :
    (checkReply rem s).build = s.build := by
  unfold checkReply; dsimp only; split <;> [split <;> [skip; split]; skip] <;> simp
@[simp] theorem checkReply_pending (rem : Bytes) (s : State) :
    (checkReply rem s).pending = s.pending := by
  unfold checkReply; dsimp only; split <;> [split <;> [skip; split]; skip] <;> simp
@[simp] theorem checkReply_link (rem : Bytes) (s : State) :
    (checkReply rem s).link = s.link := by
  unfold checkReply; dsimp only; split <;> [split <;> [skip; split]; skip] <;> simp
@[simp] theorem checkReply_trace (rem : Bytes) (s : State) :
    (checkReply rem s).trace = s.trace := by
  unfold checkReply; dsimp only; split <;> [split <;> [skip; split]; skip] <;> simp
@[simp] theorem checkReply_hostRes (rem : Bytes) (s : State) :
    (checkReply rem s).hostRes = s.hostRes := by
  unfold checkReply; dsimp only; split <;> [split <;> [skip; split]; skip] <;> simp
@[simp] theorem checkReply_resetInput (rem : Bytes) (s : State) :
    (checkReply rem s).resetInput = s.resetInput := by
  unfold checkReply; dsimp only; split <;> [split <;> [skip; split]; skip] <;> simp
@[simp] theorem checkReply_hangIn (rem : Bytes) (s : State) :
    (checkReply rem s).hangIn = s.hangIn := by
  unfold checkReply; dsimp only; split <;> [split <;> [skip; split]; skip] <;> simp

@[simp] theorem checkEcho_cmdState (frame rx : Bytes) (s : State) :
    (checkEcho frame rx s).cmdState = s.cmdState := by
  unfold checkEcho; split <;> simp
@[simp] theorem checkEcho_toggle (frame rx : Bytes) (s : State) :
    (checkEcho frame rx s).toggle = s.toggle := by
  unfold checkEcho; split <;> simp
@[simp] theorem checkEcho_linkOpen (frame rx : Bytes) (s : State) :
    (checkEcho frame rx s).linkOpen = s.linkOpen := by
  unfold checkEcho; split <;> simp
@[simp] theorem checkEcho_savedParams (frame rx : Bytes) (s : State) :
    (checkEcho frame rx s).savedParams = s.savedParams := by
  unfold checkEcho; split <;> simp
@[simp] theorem checkEcho_bt (frame rx : Bytes) (s : State) :
    (checkEcho frame rx s).bt = s.bt := by
  unfold checkEcho; split <;> simp
@[simp] theorem checkEcho_mem (frame rx : Bytes) (s : State) :
    (checkEcho frame rx s).mem = s.mem := by
  unfold checkEcho; split <;> simp
@[simp] theorem checkEcho_res (frame rx : Bytes) (s : State) :
    (checkEcho frame rx s).res = s.res := by
  unfold checkEcho; split <;> simp
@[simp] theorem checkEcho_cfg (frame rx : Bytes) (s : State) :
    (checkEcho frame rx s).cfg = s.cfg := by
  unfold checkEcho; split <;> simp
@[simp] theorem checkEcho_build (frame rx : Bytes) (s : State) :
    (checkEcho frame rx s).build = s.build := by
  unfold checkEcho; split <;> simp
@[simp] theorem checkEcho_pending (frame rx : Bytes) (s : State) :
    (checkEcho frame rx s).pending = s.pending := by
  unfold checkEcho; split <;> simp
@[simp] theorem checkEcho_link (frame rx : Bytes) (s : State) :
    (checkEcho frame rx s).link = s.link := by
  unfold checkEcho; split <;> simp
@[simp] theorem checkEcho_trace (frame rx : Bytes) (s : State) :
    (checkEcho frame rx s).trace = s.trace := by
  unfold checkEcho; split <;> simp
@[simp] theorem checkEcho_hostRes (frame rx : Bytes) (s : State) :
    (checkEcho frame rx s).hostRes = s.hostRes := by
  unfold checkEcho; split <;> simp
@[simp] theorem checkEcho_resetInput (frame rx : Bytes) (s : State) :
    (checkEcho frame rx s).resetInput = s.resetInput := by
  unfold checkEcho; split <;> simp
@[simp] theorem checkEcho_hangIn (frame rx : Bytes) (s : State) :
    (checkEcho frame rx s).hangIn = s.hangIn := by
  unfold checkEcho; split <;> simp

@[simp] theorem checkRead_cmdState (frame : Bytes) (ign : Bool) (answer : ReadAnswer) (s : State) :
    (checkRead frame ign answer s).cmdState = s.cmdState := by
  unfold checkRead; split <;> [skip; split] <;> simp
@[simp] theorem checkRead_savedParams (frame : Bytes) (ign : Bool) (answer : ReadAnswer) (s : State) :
    (checkRead frame ign answer s).savedParams = s.savedParams := by
  unfold checkRead; split <;> [skip; split] <;> simp
@[simp] theorem checkRead_bt (frame : Bytes) (ign : Bool) (answer : ReadAnswer) (s : State) :
    (checkRead frame ign answer s).bt = s.bt := by
  unfold checkRead; split <;> [skip; split] <;> simp
@[simp] theorem checkRead_mem (frame : Bytes) (ign : Bool) (answer : ReadAnswer) (s : State) :
    (checkRead frame ign answer s).mem = s.mem := by
  unfold checkRead; split <;> [skip; split] <;> simp
@[simp] theorem checkRead_res (frame : Bytes) (ign : Bool) (answer : ReadAnswer) (s : State) :
    (checkRead frame ign answer s).res = s.res := by
  unfold checkRead; split <;> [skip; split] <;> simp
@[simp] theorem checkRead_cfg (frame : Bytes) (ign : Bool) (answer : ReadAnswer) (s : State) :
    (checkRead frame ign answer s).cfg = s.cfg := by
  unfold checkRead; split <;> [skip; split] <;> simp
@[simp] theorem checkRead_build (frame : Bytes) (ign : Bool) (answer : ReadAnswer) (s : State) :
    (checkRead frame ign answer s).build = s.build := by
  unfold checkRead; split <;> [skip; split] <;> simp
@[simp] theorem checkRead_pending (frame : Bytes) (ign : Bool) (answer : ReadAnswer) (s : State) :
    (checkRead frame ign answer s).pending = s.pending := by
  unfold checkRead; split <;> [skip; split] <;> simp
@[simp] theorem checkRead_hostRes (frame : Bytes) (ign : Bool) (answer : ReadAnswer) (s : State) :
    (checkRead frame ign answer s).hostRes = s.hostRes := by
  unfold checkRead; split <;> [skip; split] <;> simp
@[simp] theorem checkRead_resetInput (frame : Bytes) (ign : Bool) (answer : ReadAnswer) (s : State) :
    (checkRead frame ign answer s).resetInput = s.resetInput := by
  unfold checkRead; split <;> [skip; split] <;> simp
@[simp] theorem checkRead_hangIn (frame : Bytes) (ign : Bool) (answer : ReadAnswer) (s : State) :
    (checkRead frame ign answer s).hangIn = s.hangIn := by
  unfold checkRead; split <;> [skip; split] <;> simp

@[simp] theorem awaitAnswer_cmdState (frame : Bytes) (tmo : Half) (ign : Bool) (s : State) :
    (awaitAnswer frame tmo ign s).cmdState = s.cmdState := by
  simp [awaitAnswer]
@[simp] theorem awaitAnswer_savedParams (frame : Bytes) (tmo : Half) (ign : Bool) (s : State) :
    (awaitAnswer frame tmo ign s).savedParams = s.savedParams := by
  simp [awaitAnswer]
@[simp] theorem awaitAnswer_bt (frame : Bytes) (tmo : Half) (ign : Bool) (s : State) :
    (awaitAnswer frame tmo ign s).bt = s.bt := by
  simp [awaitAnswer]
@[simp] theorem awaitAnswer_mem (frame : Bytes) (tmo : Half) (ign : Bool) (s : State) :
    (awaitAnswer frame tmo ign s).mem = s.mem := by
  simp [awaitAnswer]
@[simp] theorem awaitAnswer_res (frame : Bytes) (tmo : Half) (ign : Bool) (s : State) :
    (awaitAnswer frame tmo ign s).res = s.res := by
  simp [awaitAnswer]
@[simp] theorem awaitAnswer_cfg (frame : Bytes) (tmo : Half) (ign : Bool) (s : State) :
    (awaitAnswer frame tmo ign s).cfg = s.cfg := by
  simp [awaitAnswer]
@[simp] theorem awaitAnswer_build (frame : Bytes) (tmo : Half) (ign : Bool) (s : State) :
    (awaitAnswer frame tmo ign s).build = s.build := by
  simp [awaitAnswer]
@[simp] theorem awaitAnswer_pending (frame : Bytes) (tmo : Half) (ign : Bool) (s : State) :
    (awaitAnswer frame tmo ign s).pending = s.pending := by
  simp [awaitAnswer]
@[simp] theorem awaitAnswer_hostRes (frame : Bytes) (tmo : Half) (ign : Bool) (s : State) :
    (awaitAnswer frame tmo ign s).hostRes = s.hostRes := by
  simp [awaitAnswer]
@[simp] theorem awaitAnswer_resetInput (frame : Bytes) (tmo : Half) (ign : Bool) (s : State) :
    (awaitAnswer frame tmo ign s).resetInput = s.resetInput := by
  simp [awaitAnswer]
@[simp] theorem awaitAnswer_hangIn (frame : Bytes) (tmo : Half) (ign : Bool) (s : State) :
    (awaitAnswer frame tmo ign s).hangIn = s.hangIn := by
  simp [awaitAnswer]

@[simp] theorem writeFrame_cmdState (frame : Bytes) (tmo : Half) (ign : Bool) (s : State) :
    (writeFrame frame tmo ign s).cmdState = s.cmdState := by
  unfold writeFrame; split <;> simp
@[simp] theorem writeFrame_savedParams (frame : Bytes) (tmo : Half) (ign : Bool) (s : State) :
    (writeFrame frame tmo ign s).savedParams = s.savedParams := by
  unfold writeFrame; split <;> simp
@[simp] theorem writeFrame_bt (frame : Bytes) (tmo : Half) (ign : Bool) (s : State) :
    (writeFrame frame tmo ign s).bt = s.bt := by
  unfold writeFrame; split <;> simp
@[simp] theorem writeFrame_mem (frame : Bytes) (tmo : Half) (ign : Bool) (s : State) :
    (writeFrame frame tmo ign s).mem = s.mem := by
  unfold writeFrame; split <;> simp
@[simp] theorem writeFrame_res (frame : Bytes) (tmo : Half) (ign : Bool) (s : State) :
    (writeFrame frame tmo ign s).res = s.res := by
  unfold writeFrame; split <;> simp
@[simp] theorem writeFrame_cfg (frame : Bytes) (tmo : Half) (ign : Bool) (s : State) :
    (writeFrame frame tmo ign s).cfg = s.cfg := by
  unfold writeFrame; split <;> simp
@[simp] theorem writeFrame_build (frame : Bytes) (tmo : Half) (ign : Bool) (s : State) :
    (writeFrame frame tmo ign s).build = s.build := by
  unfold writeFrame; split <;> simp
@[simp] theorem writeFrame_pending (frame : Bytes) (tmo : Half) (ign : Bool) (s : State) :
    (writeFrame frame tmo ign s).pending = s.pending := by
  unfold writeFrame; split <;> simp
@[simp] theorem writeFrame_hostRes (frame : Bytes) (tmo : Half) (ign : Bool) (s : State) :
    (writeFrame frame tmo ign s).hostRes = s.hostRes := by
  unfold writeFrame; split <;> simp
@[simp] theorem writeFrame_resetInput (frame : Bytes) (tmo : Half) (ign : Bool) (s : State) :
    (writeFrame frame tmo ign s).resetInput = s.resetInput := by
  unfold writeFrame; split <;> simp
@[simp] theorem writeFrame_hangIn (frame : Bytes) (tmo : Half) (ign : Bool) (s : State) :
    (writeFrame frame tmo ign s).hangIn = s.hangIn := by
  unfold writeFrame; split <;> simp

@[simp] theorem sendFrame_cmdState (frame : Bytes) (tmo : Half) (ign : Bool) (s : State) :
    (sendFrame frame tmo ign s).cmdState = s.cmdState := by
  unfold sendFrame; split <;> simp
@[simp] theorem sendFrame_savedParams (frame : Bytes) (tmo : Half) (ign : Bool) (s : State) :
    (sendFrame frame tmo ign s).savedParams = s.savedParams := by
  unfold sendFrame; split <;> simp
@[simp] theorem sendFrame_bt (frame : Bytes) (tmo : Half) (ign : Bool) (s : State) :
    (sendFrame frame tmo ign s).bt = s.bt := by
  unfold sendFrame; split <;> simp
@[simp] theorem sendFrame_mem (frame : Bytes) (tmo : Half) (ign : Bool) (s : State) :
    (sendFrame frame tmo ign s).mem = s.mem := by
  unfold sendFrame; split <;> simp
@[simp] theorem sendFrame_res (frame : Bytes) (tmo : Half) (ign : Bool) (s : State) :
    (sendFrame frame tmo ign s).res = s.res := by
  unfold sendFrame; split <;> simp
@[simp] theorem sendFrame_cfg (frame : Bytes) (tmo : Half) (ign : Bool) (s : State) :
    (sendFrame frame tmo ign s).cfg = s.cfg := by
  unfold sendFrame; split <;> simp
@[simp] theorem sendFrame_build (frame : Bytes) (tmo : Half) (ign : Bool) (s : State) :
    (sendFrame frame tmo ign s).build = s.build := by
  unfold sendFrame; split <;> simp
@[simp] theorem sendFrame_pending (frame : Bytes) (tmo : Half) (ign : Bool) (s : State) :
    (sendFrame frame tmo ign s).pending = s.pending := by
  unfold sendFrame; split <;> simp
@[simp] theorem sendFrame_hostRes (frame : Bytes) (tmo : Half) (ign : Bool) (s : State) :
    (sendFrame frame tmo ign s).hostRes = s.hostRes := by
  unfold sendFrame; split <;> simp
@[simp] theorem sendFrame_resetInput (frame : Bytes) (tmo : Half) (ign : Bool) (s : State) :
    (sendFrame frame tmo ign s).resetInput = s.resetInput := by
  unfold sendFrame; split <;> simp
@[simp] theorem sendFrame_hangIn (frame : Bytes) (tmo : Half) (ign : Bool) (s : State) :
    (sendFrame frame tmo ign s).hangIn = s.hangIn := by
  unfold sendFrame; split <;> simp

@[simp] theorem encodeAndSend_cmdState (opc : Byte) (params : Bytes) (tmo : Half) (ign : Bool) (s : State) :
    (encodeAndSend opc params tmo ign s).cmdState = s.cmdState := by
  unfold encodeAndSend; split <;> simp
@[simp] theorem encodeAndSend_savedParams (opc : Byte) (params : Bytes) (tmo : Half) (ign : Bool) (s : State) :
    (encodeAndSend opc params tmo ign s).savedParams = s.savedParams := by
  unfold encodeAndSend; split <;> simp
@[simp] theorem encodeAndSend_bt (opc : Byte) (params : Bytes) (tmo : Half) (ign : Bool) (s : State) :
    (encodeAndSend opc params tmo ign s).bt = s.bt := by
  unfold encodeAndSend; split <;> simp
@[simp] theorem encodeAndSend_mem (opc : Byte) (params : Bytes) (tmo : Half) (ign : Bool) (s : State) :
    (encodeAndSend opc params tmo ign s).mem = s.mem := by
  unfold encodeAndSend; split <;> simp
@[simp] theorem encodeAndSend_res (opc : Byte) (params : Bytes) (tmo : Half) (ign : Bool) (s : State) :
    (encodeAndSend opc params tmo ign s).res = s.res := by
  unfold encodeAndSend; split <;> simp
@[simp] theorem encodeAndSend_cfg (opc : Byte) (params : Bytes) (tmo : Half) (ign : Bool) (s : State) :
    (encodeAndSend opc params tmo ign s).cfg = s.cfg := by
  unfold encodeAndSend; split <;> simp
@[simp] theorem encodeAndSend_build (opc : Byte) (params : Bytes) (tmo : Half) (ign : Bool) (s : State) :
    (encodeAndSend opc params tmo ign s).build = s.build := by
  unfold encodeAndSend; split <;> simp
@[simp] theorem encodeAndSend_pending (opc : Byte) (params : Bytes) (tmo : Half) (ign : Bool) (s : State) :
    (encodeAndSend opc params tmo ign s).pending = s.pending := by
  unfold encodeAndSend; split <;> simp
@[simp] theorem encodeAndSend_hostRes (opc : Byte) (params : Bytes) (tmo : Half) (ign : Bool) (s : State) :
    (encodeAndSend opc params tmo ign s).hostRes = s.hostRes := by
  unfold encodeAndSend; split <;> simp
@[simp] theorem encodeAndSend_resetInput (opc : Byte) (params : Bytes) (tmo : Half) (ign : Bool) (s : State) :
    (encodeAndSend opc params tmo ign s).resetInput = s.resetInput := by
  unfold encodeAndSend; split <;> simp
@[simp] theorem encodeAndSend_hangIn (opc : Byte) (params : Bytes) (tmo : Half) (ign : Bool) (s : State) :
    (encodeAndSend opc params tmo ign s).hangIn = s.hangIn := by
  unfold encodeAndSend; split <;> simp

/-! ## The exchange as a whole: it writes the registers of R201 and no other. -/

@[simp] theorem transceive_cmdState (opc : Byte) (params : Bytes) (tmo : Half) (ign : Bool) (s : State) :
    (transceive opc params tmo ign s).cmdState = s.cmdState := by
  unfold transceive; dsimp only; split <;> simp
@[simp] theorem transceive_savedParams (opc : Byte) (params : Bytes) (tmo : Half) (ign : Bool) (s : State) :
    (transceive opc params tmo ign s).savedParams = s.savedParams := by
  unfold transceive; dsimp only; split <;> simp
@[simp] theorem transceive_bt (opc : Byte) (params : Bytes) (tmo : Half) (ign : Bool) (s : State) :
    (transceive opc params tmo ign s).bt = s.bt := by
  unfold transceive; dsimp only; split <;> simp
@[simp] theorem transceive_mem (opc : Byte) (params : Bytes) (tmo : Half) (ign : Bool) (s : State) :
    (transceive opc params tmo ign s).mem = s.mem := by
  unfold transceive; dsimp only; split <;> simp
@[simp] theorem transceive_res (opc : Byte) (params : Bytes) (tmo : Half) (ign : Bool) (s : State) :
    (transceive opc params tmo ign s).res = s.res := by
  unfold transceive; dsimp only; split <;> simp
@[simp] theorem transceive_cfg (opc : Byte) (params : Bytes) (tmo : Half) (ign : Bool) (s : State) :
    (transceive opc params tmo ign s).cfg = s.cfg := by
  unfold transceive; dsimp only; split <;> simp
@[simp] theorem transceive_build (opc : Byte) (params : Bytes) (tmo : Half) (ign : Bool) (s : State) :
    (transceive opc params tmo ign s).build = s.build := by
  unfold transceive; dsimp only; split <;> simp
@[simp] theorem transceive_pending (opc : Byte) (params : Bytes) (tmo : Half) (ign : Bool) (s : State) :
    (transceive opc params tmo ign s).pending = s.pending := by
  unfold transceive; dsimp only; split <;> simp
@[simp] theorem transceive_hostRes (opc : Byte) (params : Bytes) (tmo : Half) (ign : Bool) (s : State) :
    (transceive opc params tmo ign s).hostRes = s.hostRes := by
  unfold transceive; dsimp only; split <;> simp
@[simp] theorem transceive_resetInput (opc : Byte) (params : Bytes) (tmo : Half) (ign : Bool) (s : State) :
    (transceive opc params tmo ign s).resetInput = s.resetInput := by
  unfold transceive; dsimp only; split <;> simp
@[simp] theorem transceive_hangIn (opc : Byte) (params : Bytes) (tmo : Half) (ign : Bool) (s : State) :
    (transceive opc params tmo ign s).hangIn = s.hangIn := by
  unfold transceive; dsimp only; split <;> simp

/-! ## The frame -/

@[simp] theorem withComplements_length (bs : Bytes) : (withComplements bs).length = 2 * bs.length := by
  induction bs with
  | nil => rfl
  | cons b bs ih => simp only [withComplements, List.length_cons, ih]; omega

@[simp] theorem frameBody_length (op : Byte) (params : Bytes) : (frameBody op params).length = params.length + 2 := by
  simp [frameBody]

@[simp] theorem preamble_length (fast : Bool) : (preamble fast).length = preambleLength fast := by cases fast <;> rfl

/-- The length of a frame (30_encoding.md R112). -/
theorem frameOf_length (fast : Bool) (op : Byte) (params : Bytes) :
    (frameOf fast op params).length = if fast then 3 + params.length else 7 + 2 * params.length := by
  cases fast <;> simp [frameOf, preambleLength] <;> omega

/-- The byte after the preamble is the transmitted opcode (41_transceiver.md R204). -/
@[simp] theorem frameOf_opcode (fast : Bool) (op : Byte) (params : Bytes) :
    (frameOf fast op params).getD (preambleLength fast) 0 = op := by
  cases fast <;> rfl

/-- The length check of the encode step never fires (41_transceiver.md R204). -/
theorem frameOf_long (fast : Bool) (op : Byte) (params : Bytes) :
    ¬((frameOf fast op params).length = 0 ∨ (frameOf fast op params).length < preambleLength fast) := by
  rw [frameOf_length]; cases fast <;> simp [preambleLength]; omega

/-! ## How an exchange begins -/

/-- The state as an exchange begins: TX_TIMEOUT and TX_IGNORE (41_transceiver.md R201). -/
def exchangeStart (tmo : Half) (ign : Bool) (s : State) : State := s.setTx { s.tx with timeout := tmo, ignore := ign }

/-- The state as the frame `f` of the opcode `op` is handed to the LINK (41_transceiver.md R201). -/
def exchangeSending (f : Bytes) (op : Byte) (tmo : Half) (ign : Bool) (s : State) : State :=
  (s.setToggle (!s.toggle)).setTx
    { s.tx with state := .sending, frame := f, opcode := op, timeout := tmo, ignore := ign }

/-- A closed link (41_transceiver.md R203). -/
theorem transceive_closed {s : State} (h : s.linkOpen = false) (opc : Byte) (params : Bytes) (tmo : Half) (ign : Bool) :
    transceive opc params tmo ign s = failExchange .channelError (exchangeStart tmo ign s) := by
  simp [transceive, exchangeStart, h]

/-- A frame that cannot be encoded (41_transceiver.md R204). -/
theorem transceive_refused {s : State} {opc : Byte} {params : Bytes} {e : ErrCode} (h : s.linkOpen = true)
    (c : encodeCheck s.build opc params.length = some e) (tmo : Half) (ign : Bool) :
    transceive opc params tmo ign s = failExchange e (enterTx .sending (exchangeStart tmo ign s)) := by
  simp [transceive, exchangeStart, h, encodeAndSend, encodeResult, encodeToggle, c]

/-- A frame that is handed to the LINK (41_transceiver.md R201). -/
theorem transceive_sent {s : State} {opc : Byte} {params : Bytes} (h : s.linkOpen = true)
    (c : encodeCheck s.build opc params.length = none) (tmo : Half) (ign : Bool) :
    transceive opc params tmo ign s =
      writeFrame (frameOf s.cfg.fast (mixToggle s.toggle opc) params) tmo ign
        (exchangeSending (frameOf s.cfg.fast (mixToggle s.toggle opc) params) (mixToggle s.toggle opc) tmo ign s) := by
  simp only [transceive, State.setTx_linkOpen, h, if_true, encodeAndSend, encodeResult, encodeToggle, enterTx_build,
    State.setTx_build, c, enterTx_cfg, State.setTx_cfg, enterTx_toggle, State.setTx_toggle, sendFrame, State.setToggle_cfg,
    frameOf_opcode]
  rw [if_neg (frameOf_long _ _ _)]
  rfl

@[simp] theorem exchangeSending_cfg (f : Bytes) (op : Byte) (tmo : Half) (ign : Bool) (s : State) :
    (exchangeSending f op tmo ign s).cfg = s.cfg := rfl
@[simp] theorem exchangeSending_link (f : Bytes) (op : Byte) (tmo : Half) (ign : Bool) (s : State) :
    (exchangeSending f op tmo ign s).link = s.link := rfl
@[simp] theorem exchangeSending_trace (f : Bytes) (op : Byte) (tmo : Half) (ign : Bool) (s : State) :
    (exchangeSending f op tmo ign s).trace = s.trace := rfl
@[simp] theorem exchangeSending_linkOpen (f : Bytes) (op : Byte) (tmo : Half) (ign : Bool) (s : State) :
    (exchangeSending f op tmo ign s).linkOpen = s.linkOpen := rfl
@[simp] theorem exchangeSending_toggle (f : Bytes) (op : Byte) (tmo : Half) (ign : Bool) (s : State) :
    (exchangeSending f op tmo ign s).toggle = !s.toggle := rfl
@[simp] theorem exchangeSending_savedParams (f : Bytes) (op : Byte) (tmo : Half) (ign : Bool) (s : State) :
    (exchangeSending f op tmo ign s).savedParams = s.savedParams := rfl

/-! ## How an exchange ends -/

/-- An exchange has ended: SUCCESS without an error, or FAILED with one and with no payload (41_transceiver.md R201). -/
def ExchangeEnded (t : State) : Prop :=
  (t.tx.state = .success ∧ t.tx.ok = true ∧ t.tx.err = .noErr) ∨
  (t.tx.state = .failed ∧ t.tx.ok = false ∧ t.tx.err ≠ .noErr ∧ t.tx.err.ofExchange = true ∧ t.tx.payload = none)

theorem failExchange_ended {e : ErrCode} (ne : e ≠ .noErr) (x : e.ofExchange = true) (s : State) :
    ExchangeEnded (failExchange e s) := .inr ⟨rfl, rfl, ne, x, rfl⟩

theorem succExchange_ended (p : Option Bytes) (s : State) : ExchangeEnded (succExchange p s) := .inl ⟨rfl, rfl, rfl⟩

theorem checkReply_ended (rem : Bytes) (s : State) : ExchangeEnded (checkReply rem s) := by
  unfold checkReply
  dsimp only
  split
  · split
    · exact failExchange_ended (by decide) rfl _
    · split
      · exact succExchange_ended _ _
      · exact failExchange_ended (by decide) rfl _
  · exact failExchange_ended (by decide) rfl _

theorem checkEcho_ended (frame rx : Bytes) (s : State) : ExchangeEnded (checkEcho frame rx s) := by
  unfold checkEcho
  split
  · exact checkReply_ended _ _
  · exact failExchange_ended (by decide) rfl _

theorem checkRead_ended (frame : Bytes) (ign : Bool) (a : ReadAnswer) (s : State) :
    ExchangeEnded (checkRead frame ign a s) := by
  unfold checkRead
  split
  · exact succExchange_ended _ _
  · split
    · exact failExchange_ended (by decide) rfl _
    · exact checkEcho_ended _ _ _

theorem writeFrame_ended (frame : Bytes) (tmo : Half) (ign : Bool) (s : State) :
    ExchangeEnded (writeFrame frame tmo ign s) := by
  unfold writeFrame
  split
  · exact checkRead_ended _ _ _ _
  · exact failExchange_ended (by decide) rfl _

theorem encodeCheck_error {b : Build} {opc : Byte} {n : Nat} {e : ErrCode} (h : encodeCheck b opc n = some e) :
    e = .parameterCountMismatch ∨ e = .encodingError := by
  unfold encodeCheck at h
  split at h
  · exact .inl (Option.some.inj h).symm
  · split at h
    · exact .inr (Option.some.inj h).symm
    · exact absurd h (by simp)

/-- Every exchange ends (41_transceiver.md R200, R201). -/
theorem transceive_ended (opc : Byte) (params : Bytes) (tmo : Half) (ign : Bool) (s : State) :
    ExchangeEnded (transceive opc params tmo ign s) := by
  cases h : s.linkOpen with
  | false => rw [transceive_closed h]; exact failExchange_ended (by decide) rfl _
  | true =>
    cases c : encodeCheck s.build opc params.length with
    | none => rw [transceive_sent h c]; exact writeFrame_ended _ _ _ _
    | some e =>
      rw [transceive_refused h c]
      rcases encodeCheck_error c with rfl | rfl <;> exact failExchange_ended (by decide) rfl _

/-! ## `LINK_OPEN`, `TOGGLE` and the trace after an exchange -/

/-- What an exchange may do to the trace, the link and the toggle. -/
structure Grows (s t : State) : Prop where
  trace : s.trace <+: t.trace
  session : t.linkOpen = true → s.linkOpen = true ∨ s.savedParams.isSome = true

theorem openSaved_linkOpen (s : State) (h : s.linkOpen = false) :
    (openSaved s).linkOpen = true → s.savedParams.isSome = true := by
  unfold openSaved
  split
  · rename_i p e; simp [e]
  · simp [h]

theorem reconnect_trace (s : State) : s.trace <+: (reconnect s).trace := by
  unfold reconnect reconnectToggle openSaved
  split <;> split <;> simp

theorem reconnect_linkOpen (s : State) : (reconnect s).linkOpen = true → s.savedParams.isSome = true := by
  intro h
  have : (reconnect s).linkOpen = (openSaved (closeLink (enterTx .reconnect s))).linkOpen := by
    simp [reconnect]
  rw [this] at h
  simpa using openSaved_linkOpen _ (by simp) h

theorem checkRead_grows (frame : Bytes) (ign : Bool) (a : ReadAnswer) (s : State) :
    s.trace <+: (checkRead frame ign a s).trace ∧
      ((checkRead frame ign a s).linkOpen = true → s.linkOpen = true ∨ s.savedParams.isSome = true) := by
  unfold checkRead
  split
  · simp +contextual
  · split
    · exact ⟨by simpa using reconnect_trace s, fun h => .inr (reconnect_linkOpen s (by simpa using h))⟩
    · simp +contextual

theorem writeFrame_grows (frame : Bytes) (tmo : Half) (ign : Bool) (s : State) :
    Grows s (writeFrame frame tmo ign s) := by
  unfold writeFrame
  split
  · unfold awaitAnswer
    have h := checkRead_grows frame ign (readAnswer (enterTx .awaitEcho (delay tmo.toNat (txWrite frame s))))
      (rxRead tmo (enterTx .awaitEcho (delay tmo.toNat (txWrite frame s))))
    refine ⟨List.IsPrefix.trans ?_ h.1, by simpa using h.2⟩
    simp
  · exact ⟨List.IsPrefix.trans (by simp) (reconnect_trace (txWrite frame s)),
      fun h => .inr (by simpa using reconnect_linkOpen (txWrite frame s) h)⟩

/-- An exchange only adds to the trace, and leaves the link open only where it was open or where a reconnect could open it. -/
theorem transceive_grows (opc : Byte) (params : Bytes) (tmo : Half) (ign : Bool) (s : State) :
    Grows s (transceive opc params tmo ign s) := by
  cases h : s.linkOpen with
  | false => rw [transceive_closed h]; exact ⟨List.prefix_rfl, fun _ => .inl (by simp_all [exchangeStart])⟩
  | true =>
    cases c : encodeCheck s.build opc params.length with
    | none =>
      rw [transceive_sent h c]
      have g := writeFrame_grows (frameOf s.cfg.fast (mixToggle s.toggle opc) params) tmo ign
        (exchangeSending (frameOf s.cfg.fast (mixToggle s.toggle opc) params) (mixToggle s.toggle opc) tmo ign s)
      exact ⟨g.trace, g.session⟩
    | some e => rw [transceive_refused h c]; exact ⟨List.prefix_rfl, fun _ => .inl h⟩

end Sys2Proof.Machine
end

