-- ==== Sys2Proof/Laws/Wire.lean ====
section
/-! SUPPORT. The codec's functions agree with the wire format as 30_encoding.md writes it (Safety.lean). -/

namespace Sys2Proof.Machine

theorem checksum_cons (b : Byte) (bs : Bytes) : checksum (b :: bs) = b + checksum bs := by
  simp [checksum, sumBytes, BitVec.ofNat_add]

/-- The two ways to say a sum modulo 256. -/
theorem checksum_eq_byteSum (bs : Bytes) : checksum bs = byteSum bs := by
  induction bs with
  | nil => rfl
  | cons b bs ih => rw [checksum_cons, ih]; rfl

theorem byte_complement (b : Byte) : b ^^^ 0xFF = ~~~b := by
  apply BitVec.eq_of_getLsbD_eq
  intro i hi
  interval_cases i <;> simp

theorem withComplements_eq_pairs (bs : Bytes) : withComplements bs = pairs bs := by
  induction bs with
  | nil => rfl
  | cons b bs ih => simp [withComplements, pairs, ih]; exact (byte_complement b).symm

theorem mixToggle_eq_sentOpcode (toggle : Bool) (opc : Byte) : mixToggle toggle opc = sentOpcode toggle opc := by
  cases toggle <;> rfl

theorem frameOf_eq_wireFrame (fast : Bool) (op : Byte) (params : Bytes) : frameOf fast op params = wireFrame fast op params := by
  cases fast
  · simp [frameOf, wireFrame, regularFrame, preamble, Config.preReg, frameBody, withComplements_eq_pairs, checksum_eq_byteSum]
  · simp [frameOf, wireFrame, fastFrame, preamble, Config.preFast, frameBody, checksum_eq_byteSum]

/-- What EncodeFrame accepts, as 40_frame_codec.md R163 and R166 say it. -/
theorem exceedsMaxParams_eq (b : Build) (n : Nat) : exceedsMaxParams b n = !withinMaxParams b n := by
  unfold exceedsMaxParams withinMaxParams
  cases b.maxParamsOver7 with
  | none => simp
  | some extra =>
    by_cases h : n ≤ 7
    · simp [h]; omega
    · simp only [h, if_false, ← decide_not, Nat.not_le]

theorem declaredCount (opc : Byte) : (opc.extractLsb' 0 3).toNat = opc.toNat % 8 := by
  simp [BitVec.extractLsb'_toNat]

theorem encodeCheck_none_iff (b : Build) (opc : Byte) (n : Nat) : encodeCheck b opc n = none ↔ framable b opc n = true := by
  unfold encodeCheck framable isException
  rw [exceedsMaxParams_eq, declaredCount]
  cases h : withinMaxParams b n <;> by_cases h1 : opc = b.opcCont <;> by_cases h2 : opc = b.opcRemote <;>
    by_cases h3 : n = opc.toNat % 8 <;> simp [h1, h2, h3]

theorem encodeCheck_of_not_framable {b : Build} {opc : Byte} {n : Nat} (h : framable b opc n = false) :
    encodeCheck b opc n =
      some (if opc ≠ b.opcCont ∧ opc ≠ b.opcRemote ∧ n ≠ opc.toNat % 8 then .parameterCountMismatch else .encodingError) := by
  revert h
  unfold encodeCheck framable isException
  rw [exceedsMaxParams_eq, declaredCount]
  cases h : withinMaxParams b n <;> by_cases h1 : opc = b.opcCont <;> by_cases h2 : opc = b.opcRemote <;>
    by_cases h3 : n = opc.toNat % 8 <;> simp [h1, h2, h3]

end Sys2Proof.Machine
end

