-- ==== Sys2Proof/Laws/Answer.lean ====
section
/-! SUPPORT. The decoder and the echo match say once what they accept; an exchange up to the answer of its read. -/

namespace Sys2Proof.Machine

/-! ## Pairs -/

theorem unpair_pairs (bs : Bytes) : unpair (pairs bs) = some bs := by
  induction bs with
  | nil => rfl
  | cons b bs ih =>
    have e : pairs (b :: bs) = b :: (b ^^^ 0xFF) :: pairs bs := rfl
    rw [e, unpair, byte_complement, if_pos rfl, ih]
    rfl

theorem eq_pairs_of_unpair {bs p : Bytes} (h : unpair bs = some p) : bs = pairs p := by
  induction bs using unpair.induct generalizing p with
  | case1 =>
    simp only [unpair, Option.some.injEq] at h
    subst h; rfl
  | case2 => simp [unpair] at h
  | case3 x bs ih =>
    simp only [unpair, if_true] at h
    cases e : unpair bs with
    | none => simp [e] at h
    | some q =>
      simp only [e, Option.map_some, Option.some.injEq] at h
      subst h
      rw [ih e]
      simp only [pairs, List.flatMap_cons, byte_complement]
      rfl
  | case4 x y bs ne => simp [unpair, ne] at h

theorem checkedPayload_iff {body p : Bytes} : checkedPayload body = some p ↔ body = p ++ [byteSum p] := by
  rcases List.eq_nil_or_concat body with rfl | ⟨q, c, rfl⟩
  · simp [checkedPayload]
  · simp only [checkedPayload, List.concat_eq_append, List.getLast?_append, List.getLast?_singleton, Option.some_or,
      List.dropLast_concat, checksum_eq_byteSum]
    constructor
    · intro h
      split at h <;> simp_all
    · intro h
      obtain ⟨rfl, e⟩ := List.append_inj' h rfl
      simp only [List.cons.injEq, and_true] at e
      simp [e]

/-! ## The decoder (40_frame_codec.md R170 to R173) -/

theorem afterPreamble_eq (fast : Bool) (raw : Bytes) :
    afterPreamble fast raw =
      if raw.take (preamble fast).length = preamble fast then some (raw.drop (preamble fast).length) else none := by
  cases fast <;> rfl

theorem afterPreamble_none_iff {fast : Bool} {raw : Bytes} :
    afterPreamble fast raw = none ↔ ¬raw.take (preamble fast).length = preamble fast := by
  rw [afterPreamble_eq]; split <;> simp_all

/-- The payload that a body holds. -/
theorem bodyPayload_iff {fast : Bool} {body p : Bytes} :
    (if fast then some body else unpair body).bind checkedPayload = some p ↔ body = bodyOf fast p := by
  cases fast
  · simp only [Bool.false_eq_true, if_false, bodyOf, Option.bind_eq_some_iff]
    constructor
    · rintro ⟨q, h, g⟩
      rw [checkedPayload_iff.1 g] at h
      exact eq_pairs_of_unpair h
    · rintro rfl
      exact ⟨_, unpair_pairs _, checkedPayload_iff.2 rfl⟩
  · simp only [if_true, bodyOf, Option.bind_some]
    exact checkedPayload_iff

/-- A frame decodes exactly where, after its preamble, it is the body of a payload. -/
theorem decodeFrame_valid_iff {fast : Bool} {raw p : Bytes} :
    decodeFrame fast raw = (true, p) ↔ afterPreamble fast raw = some (bodyOf fast p) := by
  rw [afterPreamble_eq]
  unfold decodeFrame
  dsimp only
  split
  · rw [Option.some.injEq, ← bodyPayload_iff]
    cases h : (if fast then some _ else unpair _ : Option Bytes).bind checkedPayload <;> simp
  · simp

/-- Every other byte string is invalid, and its payload is what is left after the preamble (40_frame_codec.md R172). -/
theorem decodeFrame_invalid {fast : Bool} {raw : Bytes} (h : ∀ p, afterPreamble fast raw ≠ some (bodyOf fast p)) :
    decodeFrame fast raw = (false, (afterPreamble fast raw).getD raw) := by
  have g : ∀ p, decodeFrame fast raw ≠ (true, p) := fun p e => h p (decodeFrame_valid_iff.1 e)
  revert g
  rw [afterPreamble_eq]
  unfold decodeFrame
  dsimp only
  split
  · cases (if fast then some _ else unpair _ : Option Bytes).bind checkedPayload <;> simp
  · simp

theorem afterPreamble_wireFrame (fast : Bool) (op : Byte) (params : Bytes) :
    afterPreamble fast (wireFrame fast op params) = some (bodyOf fast (op :: params)) := by
  cases fast <;> simp [afterPreamble, wireFrame, regularFrame, fastFrame, bodyOf]

/-! ## The echo (41_transceiver.md R205) and the reply opcode (R208) -/

theorem wireFrame_ne_nil (fast : Bool) (op : Byte) (params : Bytes) : wireFrame fast op params ≠ [] := by
  cases fast <;> simp [wireFrame, fastFrame, regularFrame]

theorem stripEcho_exact (glitchy : Bool) (f rem : Bytes) : stripEcho glitchy f (f ++ rem) = some rem := by
  simp [stripEcho]

theorem stripEcho_relaxed {f rem rx : Bytes} (h : ¬f <+: rx) (e : rx.drop 1 = f ++ rem) (ne : f ≠ []) :
    stripEcho true f rx = some rem := by
  unfold stripEcho
  rw [if_neg (by intro t; exact h (t ▸ List.take_prefix _ _)), if_pos]
  · rw [Nat.add_comm, ← List.drop_drop, e, List.drop_left]
  · refine ⟨rfl, ?_, by rw [e, List.take_left]⟩
    have l := congrArg List.length e
    simp only [List.length_drop, List.length_append] at l
    have : 0 < f.length := List.length_pos_of_ne_nil ne
    omega

theorem stripEcho_none {glitchy : Bool} {f rx : Bytes} (h : ¬f <+: rx) (g : glitchy = true → ¬f <+: rx.drop 1) :
    stripEcho glitchy f rx = none := by
  unfold stripEcho
  rw [if_neg (by intro t; exact h (t ▸ List.take_prefix _ _)), if_neg]
  rintro ⟨on, -, t⟩
  exact g on (t ▸ List.take_prefix _ _)

theorem replyOpcodeMatches_iff {op : Byte} {p : Bytes} : replyOpcodeMatches op p = true ↔ p.head? = some (~~~op) := by
  cases p with
  | nil => simp [replyOpcodeMatches]
  | cons b p =>
    simp only [replyOpcodeMatches, beq_iff_eq, List.head?_cons, Option.some.injEq]
    constructor
    · intro h
      have e : b = b ^^^ op ^^^ op := by rw [BitVec.xor_assoc]; simp
      rw [e, h, BitVec.xor_comm]
      exact byte_complement op
    · rintro rfl
      rw [← byte_complement, BitVec.xor_comm, ← BitVec.xor_assoc]
      simp

/-! ## An exchange up to its read -/

/-- A frame that is handed to the LINK, in the terms of Safety.lean. -/
theorem transceive_writes {s : State} {opc : Byte} {params : Bytes} (open' : s.linkOpen = true)
    (ok : framable s.build opc params.length = true) (tmo : Half) (ign : Bool) :
    transceive opc params tmo ign s =
      writeFrame (wireFrame s.cfg.fast (sentOpcode s.toggle opc) params) tmo ign
        (exchangeSending (wireFrame s.cfg.fast (sentOpcode s.toggle opc) params) (sentOpcode s.toggle opc) tmo ign s) := by
  rw [transceive_sent open' ((encodeCheck_none_iff _ _ _).2 ok), frameOf_eq_wireFrame, mixToggle_eq_sentOpcode]

/-- The state as the answer `a` of the read has come in. -/
def readState (f : Bytes) (op : Byte) (tmo : Half) (ign : Bool) (a : ReadAnswer) (s : State) : State :=
  { s with
    toggle := !s.toggle
    tx := { s.tx with state := .awaitEcho, frame := f, opcode := op, timeout := tmo, ignore := ign, rxBuf := a.bytes }
    trace := s.trace ++ [.wrote f true, .delayed tmo.toNat, .received tmo.toNat a]
    link := { s.link with writes := s.link.writes.tail, reads := s.link.reads.tail } }

/-- An exchange whose write succeeds is the checks on its read. -/
theorem transceive_reads {s : State} {opc : Byte} {params : Bytes} {a : ReadAnswer} {w : List Bool} {r : List ReadAnswer}
    (link : s.linkGives a w r) (ok : framable s.build opc params.length = true) (tmo : Half) (ign : Bool) :
    transceive opc params tmo ign s =
      checkRead (wireFrame s.cfg.fast (sentOpcode s.toggle opc) params) ign a
        (readState (wireFrame s.cfg.fast (sentOpcode s.toggle opc) params) (sentOpcode s.toggle opc) tmo ign a s) := by
  rw [transceive_writes link.1 ok]
  generalize wireFrame s.cfg.fast (sentOpcode s.toggle opc) params = f
  generalize sentOpcode s.toggle opc = op
  have hw : writeAnswer (exchangeSending f op tmo ign s) = true := by simp [writeAnswer, link.2.1]
  have hr : readAnswer (enterTx .awaitEcho (delay tmo.toNat (txWrite f (exchangeSending f op tmo ign s)))) = a := by
    simp [readAnswer, link.2.2]
  have ht : (exchangeSending f op tmo ign s).tx =
      { s.tx with state := .sending, frame := f, opcode := op, timeout := tmo, ignore := ign } := rfl
  rw [writeFrame, if_pos hw, awaitAnswer]
  simp only [hr]
  congr 1
  apply State.eq_of_fields <;> simp [readState, hw, hr, ht] <;> rfl

end Sys2Proof.Machine
end

