-- ==== Sys2Proof/Laws/Memory.lean ====
section
/-! SUPPORT. The block buffer: reads after writes, the canonical form, and what loading it leaves. -/

namespace Sys2Proof.Machine

/-! ## One byte -/

@[simp] theorem Memory.readByte_nil (a : Nat) : Memory.readByte [] a = none := rfl

@[simp] theorem Memory.readByte_writeByte_same (m : Memory) (a : Nat) (v : Byte) :
    (m.writeByte a v).readByte a = some v := by
  induction m with
  | nil => simp [Memory.writeByte, Memory.readByte]
  | cons c m ih =>
    unfold Memory.writeByte
    split
    · simp [Memory.readByte]
    · split
      · simp [Memory.readByte]
      · rename_i h; simp [Memory.readByte, Ne.symm h, ih]

theorem Memory.readByte_writeByte_other {a b : Nat} (h : a ≠ b) (m : Memory) (v : Byte) :
    (m.writeByte a v).readByte b = m.readByte b := by
  induction m with
  | nil => simp [Memory.writeByte, Memory.readByte, h]
  | cons c m ih =>
    unfold Memory.writeByte
    split
    · simp [Memory.readByte, h]
    · split
      · rename_i e; subst e; simp [Memory.readByte, h]
      · simp [Memory.readByte, ih]

/-! ## The canonical form -/

theorem Memory.wf_iff (m : Memory) : m.wf = true ↔ (m.map Prod.fst).Pairwise (· < ·) := by
  induction m with
  | nil => simp [Memory.wf]
  | cons c m ih =>
    cases m with
    | nil => simp [Memory.wf]
    | cons d m =>
      simp only [Memory.wf, Bool.and_eq_true, decide_eq_true_eq, ih, List.map_cons, List.pairwise_cons]
      constructor
      · rintro ⟨h, h1, h2⟩
        refine ⟨?_, h1, h2⟩
        intro x hx
        rcases List.mem_cons.1 hx with rfl | hx
        · exact h
        · exact Nat.lt_trans h (h1 x hx)
      · rintro ⟨h, h1, h2⟩
        exact ⟨h _ (by simp), h1, h2⟩

theorem Memory.mem_keys_writeByte (m : Memory) (a : Nat) (v : Byte) (x : Nat) :
    x ∈ (m.writeByte a v).map Prod.fst ↔ x = a ∨ x ∈ m.map Prod.fst := by
  induction m with
  | nil => simp [Memory.writeByte]
  | cons c m ih =>
    unfold Memory.writeByte
    split
    · simp
    · split
      · rename_i e; simp [e]
      · simp only [List.map_cons, List.mem_cons, ih]; tauto

/-- A write keeps the canonical form. -/
theorem Memory.wf_writeByte {m : Memory} (h : m.wf = true) (a : Nat) (v : Byte) : (m.writeByte a v).wf = true := by
  rw [Memory.wf_iff] at h ⊢
  induction m with
  | nil => simp [Memory.writeByte]
  | cons c m ih =>
    simp only [List.map_cons, List.pairwise_cons] at h
    unfold Memory.writeByte
    split
    · rename_i lt
      simp only [List.map_cons, List.pairwise_cons, List.mem_cons]
      refine ⟨?_, h⟩
      rintro x (rfl | hx)
      · exact lt
      · exact Nat.lt_trans lt (h.1 x hx)
    · split
      · rename_i e; simpa [e] using h
      · rename_i h1 h2
        simp only [List.map_cons, List.pairwise_cons]
        refine ⟨?_, ih h.2⟩
        intro x hx
        rcases (Memory.mem_keys_writeByte m a v x).1 hx with rfl | hx
        · omega
        · exact h.1 x hx

/-- A write of a byte string keeps the canonical form. -/
theorem Memory.wf_writeBytes {m : Memory} (h : m.wf = true) (off : Nat) (bs : Bytes) :
    (m.writeBytes off bs).wf = true := by
  induction bs generalizing m off with
  | nil => exact h
  | cons b bs ih => exact ih (Memory.wf_writeByte h off b) (off + 1)

/-- The memory after reset has the canonical form. -/
@[simp] theorem reset_mem_wf : State.reset.mem.wf = true := rfl

/-! ## Loading `BT_BUF` (20_memory.md R91) -/

theorem Memory.writeByte_above {m : Memory} {a : Nat} (h : ∀ c ∈ m, c.1 < a) (v : Byte) :
    m.writeByte a v = m ++ [(a, v)] := by
  induction m with
  | nil => rfl
  | cons c m ih =>
    have hc : c.1 < a := h c (by simp)
    unfold Memory.writeByte
    rw [if_neg (by omega), if_neg (by omega), ih fun d hd => h d (by simp [hd])]
    rfl

theorem loadBytes_eq (i : Nat) (bs : Bytes) (s : State) (h : ∀ c ∈ s.mem, c.1 < i) (cap : i + bs.length ≤ s.build.bufCap) :
    loadBytes i bs s = some (s.setMem (s.mem ++ (List.range' i bs.length).zip bs)) := by
  induction bs generalizing i s with
  | nil => simp [loadBytes, State.setMem]
  | cons b bs ih =>
    simp only [List.length_cons] at cap
    have w : memWrite i [b] s = some (s.setMem (s.mem ++ [(i, b)])) := by
      simp [memWrite, Memory.writeBytes, Memory.writeByte_above h b, show i + 1 ≤ s.build.bufCap by omega]
    simp only [loadBytes, w]
    rw [ih (i + 1)]
    · simp [State.setMem, List.range'_succ]
    · intro c hc
      simp only [State.setMem_mem, List.mem_append, List.mem_singleton] at hc
      rcases hc with hc | rfl
      · exact Nat.lt_succ_of_lt (h c hc)
      · exact Nat.lt_succ_self i
    · simp only [State.setMem_build]; omega

/-- What loading leaves: `BT_BUF` holds DATA from offset 0 on and nothing else, and `BT_LEN` its length. -/
theorem loadBtBuf_eq (data : Bytes) (s : State) (cap : data.length ≤ s.build.bufCap) :
    loadBtBuf data s =
      some ((s.setMem ((List.range data.length).zip data)).setBt { s.bt with len := data.length }) := by
  have h := loadBytes_eq 0 data (s.setMem []) (by simp) (by simpa using cap)
  rw [loadBtBuf, h, List.range_eq_range']
  rfl

theorem readByte_zip_range' (bs : Bytes) (i a : Nat) :
    Memory.readByte ((List.range' i bs.length).zip bs) a = if i ≤ a then bs[a - i]? else none := by
  induction bs generalizing i with
  | nil => simp
  | cons b bs ih =>
    simp only [List.length_cons, List.range'_succ, List.zip_cons_cons, Memory.readByte, ih]
    split
    · rename_i e; subst e; simp
    · rename_i e
      by_cases le : i ≤ a
      · rw [if_pos (by omega), if_pos le, show a - i = (a - (i + 1)) + 1 by omega]
        simp
      · rw [if_neg (by omega), if_neg le]

/-- A loaded buffer reads as DATA. -/
theorem readByte_loaded (data : Bytes) (a : Nat) :
    Memory.readByte ((List.range data.length).zip data) a = data[a]? := by
  rw [List.range_eq_range', readByte_zip_range']; simp

theorem keys_loaded (data : Bytes) : ((List.range data.length).zip data).map Prod.fst = List.range data.length := by
  rw [List.map_fst_zip]; simp

/-- A loaded buffer has the canonical form. -/
theorem wf_loaded (data : Bytes) : Memory.wf ((List.range data.length).zip data) = true := by
  rw [Memory.wf_iff, keys_loaded]; exact List.pairwise_lt_range

/-- Reading a whole stretch gives the bytes of its offsets. -/
theorem Memory.readBytes_eq (m : Memory) (f : Nat → Option Byte) (hf : ∀ a, m.readByte a = f a) (bs : Bytes) (off : Nat)
    (h : ∀ j (lt : j < bs.length), f (off + j) = some bs[j]) : m.readBytes off bs.length = some bs := by
  induction bs generalizing off with
  | nil => rfl
  | cons b bs ih =>
    have h0 : f off = some b := h 0 (by simp)
    have h1 := ih (off + 1) fun j lt => by
      have := h (j + 1) (by simpa using lt)
      simpa [Nat.add_assoc, Nat.add_comm 1 j] using this
    simp only [List.length_cons, Memory.readBytes, hf, h0, h1]

/-- Reading a stretch of a loaded buffer gives that stretch of DATA. -/
theorem readBytes_loaded (data : Bytes) (off n : Nat) (le : off + n ≤ data.length) :
    Memory.readBytes ((List.range data.length).zip data) off n = some ((data.drop off).take n) := by
  have len : ((data.drop off).take n).length = n := by simp; omega
  have := Memory.readBytes_eq _ (fun a => data[a]?) (readByte_loaded data) ((data.drop off).take n) off (by
    intro j lt
    simp only [List.getElem_take, List.getElem_drop]
    rw [len] at lt
    rw [List.getElem?_eq_getElem])
  rwa [len] at this

end Sys2Proof.Machine
end

