-- ==== Sys2Proof/Laws/Transfer.lean ====
section
/-! SUPPORT. The Block Transfer Engine: what its stages leave, and how a transfer goes. -/

namespace Sys2Proof.Machine

/-! ## The stages, field by field -/

@[simp] theorem recordStatus_cmdState (s : State) :
    (recordStatus s).cmdState = s.cmdState := by
  rfl
@[simp] theorem recordStatus_toggle (s : State) :
    (recordStatus s).toggle = s.toggle := by
  rfl
@[simp] theorem recordStatus_linkOpen (s : State) :
    (recordStatus s).linkOpen = s.linkOpen := by
  rfl
@[simp] theorem recordStatus_savedParams (s : State) :
    (recordStatus s).savedParams = s.savedParams := by
  rfl
@[simp] theorem recordStatus_tx (s : State) :
    (recordStatus s).tx = s.tx := by
  rfl
@[simp] theorem recordStatus_mem (s : State) :
    (recordStatus s).mem = s.mem := by
  rfl
@[simp] theorem recordStatus_res (s : State) :
    (recordStatus s).res = s.res := by
  rfl
@[simp] theorem recordStatus_cfg (s : State) :
    (recordStatus s).cfg = s.cfg := by
  rfl
@[simp] theorem recordStatus_build (s : State) :
    (recordStatus s).build = s.build := by
  rfl
@[simp] theorem recordStatus_pending (s : State) :
    (recordStatus s).pending = s.pending := by
  rfl
@[simp] theorem recordStatus_link (s : State) :
    (recordStatus s).link = s.link := by
  rfl
@[simp] theorem recordStatus_trace (s : State) :
    (recordStatus s).trace = s.trace := by
  rfl
@[simp] theorem recordStatus_hostRes (s : State) :
    (recordStatus s).hostRes = s.hostRes := by
  rfl
@[simp] theorem recordStatus_resetInput (s : State) :
    (recordStatus s).resetInput = s.resetInput := by
  rfl
@[simp] theorem recordStatus_hangIn (s : State) :
    (recordStatus s).hangIn = s.hangIn := by
  rfl

@[simp] theorem attempt_cmdState (params : Bytes) (tmo : Half) (s : State) :
    (attempt params tmo s).cmdState = s.cmdState := by
  unfold attempt; dsimp only; split <;> simp
@[simp] theorem attempt_savedParams (params : Bytes) (tmo : Half) (s : State) :
    (attempt params tmo s).savedParams = s.savedParams := by
  unfold attempt; dsimp only; split <;> simp
@[simp] theorem attempt_mem (params : Bytes) (tmo : Half) (s : State) :
    (attempt params tmo s).mem = s.mem := by
  unfold attempt; dsimp only; split <;> simp
@[simp] theorem attempt_res (params : Bytes) (tmo : Half) (s : State) :
    (attempt params tmo s).res = s.res := by
  unfold attempt; dsimp only; split <;> simp
@[simp] theorem attempt_cfg (params : Bytes) (tmo : Half) (s : State) :
    (attempt params tmo s).cfg = s.cfg := by
  unfold attempt; dsimp only; split <;> simp
@[simp] theorem attempt_build (params : Bytes) (tmo : Half) (s : State) :
    (attempt params tmo s).build = s.build := by
  unfold attempt; dsimp only; split <;> simp
@[simp] theorem attempt_pending (params : Bytes) (tmo : Half) (s : State) :
    (attempt params tmo s).pending = s.pending := by
  unfold attempt; dsimp only; split <;> simp
@[simp] theorem attempt_hostRes (params : Bytes) (tmo : Half) (s : State) :
    (attempt params tmo s).hostRes = s.hostRes := by
  unfold attempt; dsimp only; split <;> simp
@[simp] theorem attempt_resetInput (params : Bytes) (tmo : Half) (s : State) :
    (attempt params tmo s).resetInput = s.resetInput := by
  unfold attempt; dsimp only; split <;> simp
@[simp] theorem attempt_hangIn (params : Bytes) (tmo : Half) (s : State) :
    (attempt params tmo s).hangIn = s.hangIn := by
  unfold attempt; dsimp only; split <;> simp

@[simp] theorem probe_cmdState (s : State) :
    (probe s).cmdState = s.cmdState := by
  simp [probe]
@[simp] theorem probe_savedParams (s : State) :
    (probe s).savedParams = s.savedParams := by
  simp [probe]
@[simp] theorem probe_mem (s : State) :
    (probe s).mem = s.mem := by
  simp [probe]
@[simp] theorem probe_res (s : State) :
    (probe s).res = s.res := by
  simp [probe]
@[simp] theorem probe_cfg (s : State) :
    (probe s).cfg = s.cfg := by
  simp [probe]
@[simp] theorem probe_build (s : State) :
    (probe s).build = s.build := by
  simp [probe]
@[simp] theorem probe_pending (s : State) :
    (probe s).pending = s.pending := by
  simp [probe]
@[simp] theorem probe_hostRes (s : State) :
    (probe s).hostRes = s.hostRes := by
  simp [probe]
@[simp] theorem probe_resetInput (s : State) :
    (probe s).resetInput = s.resetInput := by
  simp [probe]
@[simp] theorem probe_hangIn (s : State) :
    (probe s).hangIn = s.hangIn := by
  simp [probe]

@[simp] theorem backoff_cmdState (s : State) :
    (backoff s).cmdState = s.cmdState := by
  rfl
@[simp] theorem backoff_toggle (s : State) :
    (backoff s).toggle = s.toggle := by
  rfl
@[simp] theorem backoff_linkOpen (s : State) :
    (backoff s).linkOpen = s.linkOpen := by
  rfl
@[simp] theorem backoff_savedParams (s : State) :
    (backoff s).savedParams = s.savedParams := by
  rfl
@[simp] theorem backoff_tx (s : State) :
    (backoff s).tx = s.tx := by
  rfl
@[simp] theorem backoff_mem (s : State) :
    (backoff s).mem = s.mem := by
  rfl
@[simp] theorem backoff_res (s : State) :
    (backoff s).res = s.res := by
  rfl
@[simp] theorem backoff_cfg (s : State) :
    (backoff s).cfg = s.cfg := by
  rfl
@[simp] theorem backoff_build (s : State) :
    (backoff s).build = s.build := by
  rfl
@[simp] theorem backoff_pending (s : State) :
    (backoff s).pending = s.pending := by
  rfl
@[simp] theorem backoff_link (s : State) :
    (backoff s).link = s.link := by
  rfl
@[simp] theorem backoff_hostRes (s : State) :
    (backoff s).hostRes = s.hostRes := by
  rfl
@[simp] theorem backoff_resetInput (s : State) :
    (backoff s).resetInput = s.resetInput := by
  rfl
@[simp] theorem backoff_hangIn (s : State) :
    (backoff s).hangIn = s.hangIn := by
  rfl

@[simp] theorem acknowledge_cmdState (s : State) :
    (acknowledge s).cmdState = s.cmdState := by
  rfl
@[simp] theorem acknowledge_toggle (s : State) :
    (acknowledge s).toggle = s.toggle := by
  rfl
@[simp] theorem acknowledge_linkOpen (s : State) :
    (acknowledge s).linkOpen = s.linkOpen := by
  rfl
@[simp] theorem acknowledge_savedParams (s : State) :
    (acknowledge s).savedParams = s.savedParams := by
  rfl
@[simp] theorem acknowledge_tx (s : State) :
    (acknowledge s).tx = s.tx := by
  rfl
@[simp] theorem acknowledge_mem (s : State) :
    (acknowledge s).mem = s.mem := by
  rfl
@[simp] theorem acknowledge_res (s : State) :
    (acknowledge s).res = s.res := by
  rfl
@[simp] theorem acknowledge_cfg (s : State) :
    (acknowledge s).cfg = s.cfg := by
  rfl
@[simp] theorem acknowledge_build (s : State) :
    (acknowledge s).build = s.build := by
  rfl
@[simp] theorem acknowledge_pending (s : State) :
    (acknowledge s).pending = s.pending := by
  rfl
@[simp] theorem acknowledge_hostRes (s : State) :
    (acknowledge s).hostRes = s.hostRes := by
  rfl
@[simp] theorem acknowledge_resetInput (s : State) :
    (acknowledge s).resetInput = s.resetInput := by
  rfl
@[simp] theorem acknowledge_hangIn (s : State) :
    (acknowledge s).hangIn = s.hangIn := by
  rfl

@[simp] theorem abort_cmdState (e : ErrCode) (s : State) :
    (abort e s).cmdState = s.cmdState := by
  rfl
@[simp] theorem abort_toggle (e : ErrCode) (s : State) :
    (abort e s).toggle = s.toggle := by
  rfl
@[simp] theorem abort_linkOpen (e : ErrCode) (s : State) :
    (abort e s).linkOpen = s.linkOpen := by
  rfl
@[simp] theorem abort_savedParams (e : ErrCode) (s : State) :
    (abort e s).savedParams = s.savedParams := by
  rfl
@[simp] theorem abort_tx (e : ErrCode) (s : State) :
    (abort e s).tx = s.tx := by
  rfl
@[simp] theorem abort_mem (e : ErrCode) (s : State) :
    (abort e s).mem = s.mem := by
  rfl
@[simp] theorem abort_cfg (e : ErrCode) (s : State) :
    (abort e s).cfg = s.cfg := by
  rfl
@[simp] theorem abort_build (e : ErrCode) (s : State) :
    (abort e s).build = s.build := by
  rfl
@[simp] theorem abort_pending (e : ErrCode) (s : State) :
    (abort e s).pending = s.pending := by
  rfl
@[simp] theorem abort_link (e : ErrCode) (s : State) :
    (abort e s).link = s.link := by
  rfl
@[simp] theorem abort_trace (e : ErrCode) (s : State) :
    (abort e s).trace = s.trace := by
  rfl
@[simp] theorem abort_hostRes (e : ErrCode) (s : State) :
    (abort e s).hostRes = s.hostRes := by
  rfl
@[simp] theorem abort_resetInput (e : ErrCode) (s : State) :
    (abort e s).resetInput = s.resetInput := by
  rfl
@[simp] theorem abort_hangIn (e : ErrCode) (s : State) :
    (abort e s).hangIn = s.hangIn := by
  rfl

@[simp] theorem startBlock_cmdState (k : Nat) (idx : Half) (s : State) :
    (startBlock k idx s).cmdState = s.cmdState := by
  rfl
@[simp] theorem startBlock_toggle (k : Nat) (idx : Half) (s : State) :
    (startBlock k idx s).toggle = s.toggle := by
  rfl
@[simp] theorem startBlock_linkOpen (k : Nat) (idx : Half) (s : State) :
    (startBlock k idx s).linkOpen = s.linkOpen := by
  rfl
@[simp] theorem startBlock_savedParams (k : Nat) (idx : Half) (s : State) :
    (startBlock k idx s).savedParams = s.savedParams := by
  rfl
@[simp] theorem startBlock_tx (k : Nat) (idx : Half) (s : State) :
    (startBlock k idx s).tx = s.tx := by
  rfl
@[simp] theorem startBlock_mem (k : Nat) (idx : Half) (s : State) :
    (startBlock k idx s).mem = s.mem := by
  rfl
@[simp] theorem startBlock_res (k : Nat) (idx : Half) (s : State) :
    (startBlock k idx s).res = s.res := by
  rfl
@[simp] theorem startBlock_cfg (k : Nat) (idx : Half) (s : State) :
    (startBlock k idx s).cfg = s.cfg := by
  rfl
@[simp] theorem startBlock_build (k : Nat) (idx : Half) (s : State) :
    (startBlock k idx s).build = s.build := by
  rfl
@[simp] theorem startBlock_pending (k : Nat) (idx : Half) (s : State) :
    (startBlock k idx s).pending = s.pending := by
  rfl
@[simp] theorem startBlock_link (k : Nat) (idx : Half) (s : State) :
    (startBlock k idx s).link = s.link := by
  rfl
@[simp] theorem startBlock_trace (k : Nat) (idx : Half) (s : State) :
    (startBlock k idx s).trace = s.trace := by
  rfl
@[simp] theorem startBlock_hostRes (k : Nat) (idx : Half) (s : State) :
    (startBlock k idx s).hostRes = s.hostRes := by
  rfl
@[simp] theorem startBlock_resetInput (k : Nat) (idx : Half) (s : State) :
    (startBlock k idx s).resetInput = s.resetInput := by
  rfl
@[simp] theorem startBlock_hangIn (k : Nat) (idx : Half) (s : State) :
    (startBlock k idx s).hangIn = s.hangIn := by
  rfl

@[simp] theorem startTransfer_cmdState (bsize : Half) (ext : Bool) (n : Nat) (s : State) :
    (startTransfer bsize ext n s).cmdState = s.cmdState := by
  rfl
@[simp] theorem startTransfer_toggle (bsize : Half) (ext : Bool) (n : Nat) (s : State) :
    (startTransfer bsize ext n s).toggle = s.toggle := by
  rfl
@[simp] theorem startTransfer_linkOpen (bsize : Half) (ext : Bool) (n : Nat) (s : State) :
    (startTransfer bsize ext n s).linkOpen = s.linkOpen := by
  rfl
@[simp] theorem startTransfer_savedParams (bsize : Half) (ext : Bool) (n : Nat) (s : State) :
    (startTransfer bsize ext n s).savedParams = s.savedParams := by
  rfl
@[simp] theorem startTransfer_tx (bsize : Half) (ext : Bool) (n : Nat) (s : State) :
    (startTransfer bsize ext n s).tx = s.tx := by
  rfl
@[simp] theorem startTransfer_mem (bsize : Half) (ext : Bool) (n : Nat) (s : State) :
    (startTransfer bsize ext n s).mem = s.mem := by
  rfl
@[simp] theorem startTransfer_res (bsize : Half) (ext : Bool) (n : Nat) (s : State) :
    (startTransfer bsize ext n s).res = s.res := by
  rfl
@[simp] theorem startTransfer_cfg (bsize : Half) (ext : Bool) (n : Nat) (s : State) :
    (startTransfer bsize ext n s).cfg = s.cfg := by
  rfl
@[simp] theorem startTransfer_build (bsize : Half) (ext : Bool) (n : Nat) (s : State) :
    (startTransfer bsize ext n s).build = s.build := by
  rfl
@[simp] theorem startTransfer_pending (bsize : Half) (ext : Bool) (n : Nat) (s : State) :
    (startTransfer bsize ext n s).pending = s.pending := by
  rfl
@[simp] theorem startTransfer_link (bsize : Half) (ext : Bool) (n : Nat) (s : State) :
    (startTransfer bsize ext n s).link = s.link := by
  rfl
@[simp] theorem startTransfer_trace (bsize : Half) (ext : Bool) (n : Nat) (s : State) :
    (startTransfer bsize ext n s).trace = s.trace := by
  rfl
@[simp] theorem startTransfer_hostRes (bsize : Half) (ext : Bool) (n : Nat) (s : State) :
    (startTransfer bsize ext n s).hostRes = s.hostRes := by
  rfl
@[simp] theorem startTransfer_resetInput (bsize : Half) (ext : Bool) (n : Nat) (s : State) :
    (startTransfer bsize ext n s).resetInput = s.resetInput := by
  rfl
@[simp] theorem startTransfer_hangIn (bsize : Half) (ext : Bool) (n : Nat) (s : State) :
    (startTransfer bsize ext n s).hangIn = s.hangIn := by
  rfl

@[simp] theorem completeTransfer_cmdState (s : State) :
    (completeTransfer s).cmdState = s.cmdState := by
  rfl
@[simp] theorem completeTransfer_toggle (s : State) :
    (completeTransfer s).toggle = s.toggle := by
  rfl
@[simp] theorem completeTransfer_linkOpen (s : State) :
    (completeTransfer s).linkOpen = s.linkOpen := by
  rfl
@[simp] theorem completeTransfer_savedParams (s : State) :
    (completeTransfer s).savedParams = s.savedParams := by
  rfl
@[simp] theorem completeTransfer_tx (s : State) :
    (completeTransfer s).tx = s.tx := by
  rfl
@[simp] theorem completeTransfer_mem (s : State) :
    (completeTransfer s).mem = s.mem := by
  rfl
@[simp] theorem completeTransfer_cfg (s : State) :
    (completeTransfer s).cfg = s.cfg := by
  rfl
@[simp] theorem completeTransfer_build (s : State) :
    (completeTransfer s).build = s.build := by
  rfl
@[simp] theorem completeTransfer_pending (s : State) :
    (completeTransfer s).pending = s.pending := by
  rfl
@[simp] theorem completeTransfer_link (s : State) :
    (completeTransfer s).link = s.link := by
  rfl
@[simp] theorem completeTransfer_trace (s : State) :
    (completeTransfer s).trace = s.trace := by
  rfl
@[simp] theorem completeTransfer_hostRes (s : State) :
    (completeTransfer s).hostRes = s.hostRes := by
  rfl
@[simp] theorem completeTransfer_resetInput (s : State) :
    (completeTransfer s).resetInput = s.resetInput := by
  rfl
@[simp] theorem completeTransfer_hangIn (s : State) :
    (completeTransfer s).hangIn = s.hangIn := by
  rfl

@[simp] theorem refuseTransfer_cmdState (e : ErrCode) (s : State) :
    (refuseTransfer e s).cmdState = s.cmdState := by
  rfl
@[simp] theorem refuseTransfer_toggle (e : ErrCode) (s : State) :
    (refuseTransfer e s).toggle = s.toggle := by
  rfl
@[simp] theorem refuseTransfer_linkOpen (e : ErrCode) (s : State) :
    (refuseTransfer e s).linkOpen = s.linkOpen := by
  rfl
@[simp] theorem refuseTransfer_savedParams (e : ErrCode) (s : State) :
    (refuseTransfer e s).savedParams = s.savedParams := by
  rfl
@[simp] theorem refuseTransfer_tx (e : ErrCode) (s : State) :
    (refuseTransfer e s).tx = s.tx := by
  rfl
@[simp] theorem refuseTransfer_bt (e : ErrCode) (s : State) :
    (refuseTransfer e s).bt = s.bt := by
  rfl
@[simp] theorem refuseTransfer_mem (e : ErrCode) (s : State) :
    (refuseTransfer e s).mem = s.mem := by
  rfl
@[simp] theorem refuseTransfer_cfg (e : ErrCode) (s : State) :
    (refuseTransfer e s).cfg = s.cfg := by
  rfl
@[simp] theorem refuseTransfer_build (e : ErrCode) (s : State) :
    (refuseTransfer e s).build = s.build := by
  rfl
@[simp] theorem refuseTransfer_pending (e : ErrCode) (s : State) :
    (refuseTransfer e s).pending = s.pending := by
  rfl
@[simp] theorem refuseTransfer_link (e : ErrCode) (s : State) :
    (refuseTransfer e s).link = s.link := by
  rfl
@[simp] theorem refuseTransfer_trace (e : ErrCode) (s : State) :
    (refuseTransfer e s).trace = s.trace := by
  rfl
@[simp] theorem refuseTransfer_hostRes (e : ErrCode) (s : State) :
    (refuseTransfer e s).hostRes = s.hostRes := by
  rfl
@[simp] theorem refuseTransfer_resetInput (e : ErrCode) (s : State) :
    (refuseTransfer e s).resetInput = s.resetInput := by
  rfl
@[simp] theorem refuseTransfer_hangIn (e : ErrCode) (s : State) :
    (refuseTransfer e s).hangIn = s.hangIn := by
  rfl

/-! ## A transfer as a relation between its first and its last state -/

/-- The state in which the loop of a block ends. -/
def BlockEnd.state : BlockEnd → State
  | .acknowledged s => s
  | .aborted s => s

/-- What holds between the states before and after every stage, and composes, holds between the states before and after the
loop of a block. -/
theorem blockLoop_rel (R : State → State → Prop) (trans : ∀ {a b c}, R a b → R b c → R a c)
    (onAttempt : ∀ params tmo s, R s (attempt params tmo s)) (onProbe : ∀ s, R s (probe s))
    (onBackoff : ∀ s, R s (backoff s)) (onAcknowledge : ∀ s, R s (acknowledge s)) (onAbort : ∀ e s, R s (abort e s))
    (params : Bytes) (tmo : Half) (left : Nat) (s : State) : R s (blockLoop params tmo left s).state := by
  induction left generalizing s with
  | zero =>
    unfold blockLoop
    dsimp only
    split
    · exact trans (onAttempt _ _ _) (onAcknowledge _)
    · split
      · exact trans (onAttempt _ _ _) (trans (onProbe _) (onAbort _ _))
      · exact trans (onAttempt _ _ _) (trans (onProbe _) (onAbort _ _))
    all_goals exact trans (onAttempt _ _ _) (onAbort _ _)
  | succ left ih =>
    unfold blockLoop
    dsimp only
    split
    · exact trans (onAttempt _ _ _) (onAcknowledge _)
    · split
      · exact trans (onAttempt _ _ _) (trans (onProbe _) (trans (onBackoff _) (ih _)))
      · exact trans (onAttempt _ _ _) (trans (onProbe _) (onAbort _ _))
    all_goals exact trans (onAttempt _ _ _) (trans (onBackoff _) (ih _))

/-- The same for the blocks of a transfer. -/
theorem sendBlocks_rel (R : State → State → Prop) (trans : ∀ {a b c}, R a b → R b c → R a c)
    (onStart : ∀ k idx s, R s (startBlock k idx s)) (onComplete : ∀ s, R s (completeTransfer s))
    (onLoop : ∀ params tmo left s, R s (blockLoop params tmo left s).state)
    (tmo : Half) (n k : Nat) (s t : State) (h : sendBlocks tmo n k s = .next t) : R s t := by
  induction n generalizing k s with
  | zero =>
    simp only [sendBlocks, Host.Outcome.next.injEq] at h
    exact h ▸ onComplete s
  | succ n ih =>
    unfold sendBlocks at h
    split at h
    · cases h
    · rename_i idx params e
      have l := onLoop params tmo s.cfg.maxRetries.toNat (startBlock k idx s)
      split at h
      · rename_i u eq
        rw [eq] at l
        exact trans (onStart k idx s) (trans l (ih (k + 1) u h))
      · rename_i u eq
        rw [eq] at l
        simp only [Host.Outcome.next.injEq] at h
        subst h
        exact trans (onStart k idx s) l

/-! ## What a transfer leaves alone -/

/-- The fields that no stage of a transfer writes. -/
structure TransferKeeps (s t : State) : Prop where
  cmdState : t.cmdState = s.cmdState
  savedParams : t.savedParams = s.savedParams
  mem : t.mem = s.mem
  cfg : t.cfg = s.cfg
  build : t.build = s.build
  pending : t.pending = s.pending
  hostRes : t.hostRes = s.hostRes
  resetInput : t.resetInput = s.resetInput
  hangIn : t.hangIn = s.hangIn
  valid : t.res.valid = s.res.valid
  value : t.res.value = s.res.value
  len : t.bt.len = s.bt.len
  bsize : t.bt.bsize = s.bt.bsize
  ext : t.bt.ext = s.bt.ext
  nblocks : t.bt.nblocks = s.bt.nblocks
  trace : s.trace <+: t.trace
  session : t.linkOpen = true → s.linkOpen = true ∨ s.savedParams.isSome = true

theorem TransferKeeps.refl (s : State) : TransferKeeps s s :=
  ⟨rfl, rfl, rfl, rfl, rfl, rfl, rfl, rfl, rfl, rfl, rfl, rfl, rfl, rfl, rfl, List.prefix_rfl, .inl⟩

theorem TransferKeeps.trans {a b c : State} (h : TransferKeeps a b) (g : TransferKeeps b c) : TransferKeeps a c where
  cmdState := g.cmdState.trans h.cmdState
  savedParams := g.savedParams.trans h.savedParams
  mem := g.mem.trans h.mem
  cfg := g.cfg.trans h.cfg
  build := g.build.trans h.build
  pending := g.pending.trans h.pending
  hostRes := g.hostRes.trans h.hostRes
  resetInput := g.resetInput.trans h.resetInput
  hangIn := g.hangIn.trans h.hangIn
  valid := g.valid.trans h.valid
  value := g.value.trans h.value
  len := g.len.trans h.len
  bsize := g.bsize.trans h.bsize
  ext := g.ext.trans h.ext
  nblocks := g.nblocks.trans h.nblocks
  trace := h.trace.trans g.trace
  session l := by
    rcases g.session l with x | x
    · exact h.session x
    · rw [h.savedParams] at x; exact .inr x

@[simp] theorem recordStatus_bt (s : State) :
    (recordStatus s).bt = { s.bt with state := .check, lastStatus := (statusByte s.tx.payload).getD 0xFF } := rfl

/-- An attempt writes BT_STATE and BT_LAST_STATUS of the engine's registers (42_block_transfer.md R241). -/
theorem attempt_bt (params : Bytes) (tmo : Half) (s : State) :
    (attempt params tmo s).bt = { s.bt with state := .send } ∨
      ∃ st, (attempt params tmo s).bt = { s.bt with state := .check, lastStatus := st } := by
  unfold attempt
  dsimp only
  split
  · exact .inr ⟨_, by simp; rfl⟩
  · exact .inl (by simp)

theorem transceive_session {s t : State} (opc : Byte) (params : Bytes) (tmo : Half) (ign : Bool)
    (e : t.linkOpen = (transceive opc params tmo ign s).linkOpen) :
    t.linkOpen = true → s.linkOpen = true ∨ s.savedParams.isSome = true :=
  fun l => (transceive_grows opc params tmo ign s).session (e ▸ l)

theorem attempt_keeps (params : Bytes) (tmo : Half) (s : State) : TransferKeeps s (attempt params tmo s) := by
  have g := transceive_grows s.build.opcCont params tmo false (enterBt .send s)
  have hl : (attempt params tmo s).linkOpen =
      (transceive s.build.opcCont params tmo false (enterBt .send s)).linkOpen := by
    unfold attempt; dsimp only; split <;> simp
  have ht : (attempt params tmo s).trace = (transceive s.build.opcCont params tmo false (enterBt .send s)).trace := by
    unfold attempt; dsimp only; split <;> simp
  constructor
  case trace => rw [ht]; exact g.trace
  case session => intro l; exact g.session (hl ▸ l)
  case len => rcases attempt_bt params tmo s with e | ⟨_, e⟩ <;> rw [e]
  case bsize => rcases attempt_bt params tmo s with e | ⟨_, e⟩ <;> rw [e]
  case ext => rcases attempt_bt params tmo s with e | ⟨_, e⟩ <;> rw [e]
  case nblocks => rcases attempt_bt params tmo s with e | ⟨_, e⟩ <;> rw [e]
  all_goals simp

@[simp] theorem probe_bt (s : State) : (probe s).bt = { s.bt with state := .probe } := by simp [probe]

theorem probe_keeps (s : State) : TransferKeeps s (probe s) := by
  have g := transceive_grows Config.opcPing [] s.cfg.tBaseMs true (enterBt .probe s)
  constructor
  case trace => exact g.trace
  case session => exact g.session
  all_goals simp

theorem backoff_keeps (s : State) : TransferKeeps s (backoff s) :=
  ⟨rfl, rfl, rfl, rfl, rfl, rfl, rfl, rfl, rfl, rfl, rfl, rfl, rfl, rfl, rfl, List.prefix_append _ _, .inl⟩

theorem acknowledge_keeps (s : State) : TransferKeeps s (acknowledge s) :=
  ⟨rfl, rfl, rfl, rfl, rfl, rfl, rfl, rfl, rfl, rfl, rfl, rfl, rfl, rfl, rfl, List.prefix_append _ _, .inl⟩

theorem abort_keeps (e : ErrCode) (s : State) : TransferKeeps s (abort e s) :=
  ⟨rfl, rfl, rfl, rfl, rfl, rfl, rfl, rfl, rfl, rfl, rfl, rfl, rfl, rfl, rfl, List.prefix_rfl, .inl⟩

theorem startBlock_keeps (k : Nat) (idx : Half) (s : State) : TransferKeeps s (startBlock k idx s) :=
  ⟨rfl, rfl, rfl, rfl, rfl, rfl, rfl, rfl, rfl, rfl, rfl, rfl, rfl, rfl, rfl, List.prefix_rfl, .inl⟩

theorem completeTransfer_keeps (s : State) : TransferKeeps s (completeTransfer s) :=
  ⟨rfl, rfl, rfl, rfl, rfl, rfl, rfl, rfl, rfl, rfl, rfl, rfl, rfl, rfl, rfl, List.prefix_rfl, .inl⟩

theorem blockLoop_keeps (params : Bytes) (tmo : Half) (left : Nat) (s : State) :
    TransferKeeps s (blockLoop params tmo left s).state :=
  blockLoop_rel TransferKeeps TransferKeeps.trans attempt_keeps probe_keeps backoff_keeps acknowledge_keeps abort_keeps params tmo left s

/-- The blocks of a transfer leave alone everything but the exchange's registers, the engine's own and the result. -/
theorem sendBlocks_keeps {tmo : Half} {n k : Nat} {s t : State} (h : sendBlocks tmo n k s = .next t) : TransferKeeps s t :=
  sendBlocks_rel TransferKeeps TransferKeeps.trans startBlock_keeps completeTransfer_keeps blockLoop_keeps tmo n k s t
    h

/-! ## The loop of a block, attempt by attempt -/

/-- The attempt that left `u` failed, and `v` is the state in which the retry bound is tested: after the wake-up probe where one
is due (42_block_transfer.md R249). -/
def AttemptFailed (u v : State) : Prop :=
  (v = u ∧ classifyAttempt u ≠ .okay ∧ classifyAttempt u ≠ .transceiveFailed) ∨
  (v = probe u ∧ classifyAttempt u = .transceiveFailed ∧ v.tx.ok = true)

/-- All that the loop of a block can do after its next attempt (42_block_transfer.md R240, R241). -/
theorem blockLoop_cases (params : Bytes) (tmo : Half) (left : Nat) (s : State) :
    (classifyAttempt (attempt params tmo s) = .okay ∧
      blockLoop params tmo left s = .acknowledged (acknowledge (attempt params tmo s))) ∨
    (classifyAttempt (attempt params tmo s) = .transceiveFailed ∧ (probe (attempt params tmo s)).tx.ok = false ∧
      blockLoop params tmo left s = .aborted (abort .linkLost (probe (attempt params tmo s)))) ∨
    ∃ v, AttemptFailed (attempt params tmo s) v ∧
      ((left = 0 ∧ blockLoop params tmo left s = .aborted (abort .blockTransferFailed v)) ∨
        ∃ l, left = l + 1 ∧ blockLoop params tmo left s = blockLoop params tmo l (backoff v)) := by
  unfold AttemptFailed
  cases left <;> rw [blockLoop] <;> dsimp only <;>
    cases c : classifyAttempt (attempt params tmo s) <;> simp only [reduceCtorEq, false_and, true_and, false_or] <;>
    cases h : (probe (attempt params tmo s)).tx.ok <;> simp [h]

/-- An attempt leaves the block it is for, and what a transfer records of a failure. -/
theorem attempt_block (params : Bytes) (tmo : Half) (s : State) :
    (attempt params tmo s).bt.ord = s.bt.ord ∧ (attempt params tmo s).bt.index = s.bt.index ∧
    (attempt params tmo s).bt.retry = s.bt.retry ∧ (attempt params tmo s).bt.failIndex = s.bt.failIndex ∧
    (attempt params tmo s).bt.failOrd = s.bt.failOrd ∧ (attempt params tmo s).bt.elapsed = s.bt.elapsed := by
  rcases attempt_bt params tmo s with e | ⟨_, e⟩ <;> simp [e]

/-! ## Blocks of a loaded buffer -/

/-- The start check of the operands, in the terms of Safety.lean. -/
theorem transferOutOfRange_iff {s : State} (bsize : Half) (data : Bytes) (h : s.linkOpen = true) :
    transferOutOfRange bsize data.length s = false ↔ s.transferable bsize data := by
  simp only [transferOutOfRange, State.transferable, exceedsMaxParams_eq, numBlocks, blockCount, Bool.or_eq_false_iff,
    Bool.not_eq_false', beq_eq_false_iff_ne, decide_eq_false_iff_not, Nat.not_lt, h, true_and, and_assoc, ne_eq]
  cases s.cfg.oneToN <;> simp

/-- A block that begins inside the buffer begins before its end. -/
theorem blockOffset_lt {len bsize k : Nat} (b : 1 ≤ bsize) (k1 : 1 ≤ k) (kn : k ≤ numBlocks len bsize) :
    (k - 1) * bsize < len := by
  have h : k * bsize ≤ len + bsize - 1 := (Nat.le_div_iff_mul_le b).1 kn
  obtain ⟨j, rfl⟩ : ∃ j, k = j + 1 := ⟨k - 1, by omega⟩
  rw [Nat.add_mul, Nat.one_mul] at h
  simp only [Nat.add_sub_cancel]
  omega

/-- Block `k` of a loaded buffer is there to read (42_block_transfer.md R243; 20_memory.md R92). -/
theorem block_loaded {s : State} {data : Bytes} {k : Nat} (mem : s.mem = (List.range data.length).zip data)
    (len : s.bt.len = data.length) (cap : data.length ≤ s.build.bufCap) (off : (k - 1) * s.bt.bsize.toNat ≤ data.length) :
    block k s =
      some (blockIndex s.cfg.oneToN s.bt.nblocks.toNat k,
        blockHeader (blockIndex s.cfg.oneToN s.bt.nblocks.toNat k) (blockData s.bt.bsize data (k - 1))) := by
  have le : blockOffset s.bt.bsize.toNat k + blockLength data.length s.bt.bsize.toNat k ≤ data.length := by
    simp only [blockLength, blockOffset]; omega
  have h : memRead (blockOffset s.bt.bsize.toNat k) (blockLength data.length s.bt.bsize.toNat k) s =
      some (blockData s.bt.bsize data (k - 1)) := by
    rw [memRead, if_pos ⟨by omega, by omega⟩, mem, readBytes_loaded _ _ _ le]
    simp only [blockData, blockLength, blockOffset, Option.some.injEq]
    rw [List.take_eq_take_iff]
    simp
  simp only [block, len, h]

/-- A transfer of DATA in blocks of `bsize` bytes is under way. -/
structure Loaded (data : Bytes) (bsize : Half) (s : State) : Prop where
  mem : s.mem = (List.range data.length).zip data
  len : s.bt.len = data.length
  cap : data.length ≤ s.build.bufCap
  size : s.bt.bsize = bsize
  nblocks : s.bt.nblocks.toNat = numBlocks data.length bsize.toNat

theorem Loaded.keep {data : Bytes} {bsize : Half} {s t : State} (h : Loaded data bsize s) (k : TransferKeeps s t) :
    Loaded data bsize t :=
  ⟨k.mem.trans h.mem, k.len.trans h.len, by rw [k.build]; exact h.cap, k.bsize.trans h.size, by rw [k.nblocks]; exact h.nblocks⟩

theorem toNat_pos_of_ne {bsize : Half} (h : bsize ≠ 0) : 1 ≤ bsize.toNat := by
  rcases Nat.eq_zero_or_pos bsize.toNat with e | e
  · exact absurd (BitVec.eq_of_toNat_eq (by simpa using e)) h
  · exact e

/-- Each block of a transfer under way is there to read (42_block_transfer.md R243). -/
theorem Loaded.block {s : State} {data : Bytes} {bsize : Half} {k : Nat} (h : Loaded data bsize s) (b : bsize ≠ 0) (k1 : 1 ≤ k)
    (kn : k ≤ numBlocks data.length bsize.toNat) :
    block k s =
      some (blockIndex s.cfg.oneToN (numBlocks data.length bsize.toNat) k,
        blockHeader (blockIndex s.cfg.oneToN (numBlocks data.length bsize.toNat) k) (blockData bsize data (k - 1))) := by
  have lt := blockOffset_lt (toNat_pos_of_ne b) k1 kn
  rw [block_loaded h.mem h.len h.cap (by rw [h.size]; exact Nat.le_of_lt lt), h.size, h.nblocks]

/-! ## SEND_BUFFER's body -/

/-- The state in which the first block is sent (42_block_transfer.md R241; 20_memory.md R91). -/
def transferStart (ext : Bool) (bsize : Half) (data : Bytes) (s : State) : State :=
  startTransfer bsize ext (numBlocks data.length bsize.toNat)
    ((s.setMem ((List.range data.length).zip data)).setBt { s.bt with len := data.length })

theorem transferStart_loaded {s : State} {bsize : Half} {data : Bytes} (h : s.transferable bsize data) (ext : Bool) :
    Loaded data bsize (transferStart ext bsize data s) := by
  refine ⟨rfl, rfl, h.2.2.1, rfl, ?_⟩
  have le : numBlocks data.length bsize.toNat ≤ 65536 := by
    have := h.2.2.2.2
    simp only [blockCount] at this
    simp only [numBlocks]
    split at this <;> omega
  show (BitVec.ofNat 17 (numBlocks data.length bsize.toNat)).toNat = numBlocks data.length bsize.toNat
  rw [BitVec.toNat_ofNat]
  omega

/-- A transfer that starts (42_block_transfer.md R241). -/
theorem sendBufferBody_started {s : State} {ext : Bool} {bsize : Half} {data : Bytes} (h : s.linkOpen = true)
    (c : transferOutOfRange bsize data.length s = false) :
    sendBufferBody ext bsize data s =
      sendBlocks (transferTimeout ext s.cfg) (numBlocks data.length bsize.toNat) 1 (transferStart ext bsize data s) := by
  have cap : data.length ≤ s.build.bufCap := by
    simp only [transferOutOfRange, Bool.or_eq_false_iff, decide_eq_false_iff_not] at c
    omega
  simp only [sendBufferBody, h, if_true, c, loadBtBuf_eq data s cap]
  rfl

/-- A transfer that is refused (42_block_transfer.md R241). -/
theorem sendBufferBody_refused {s : State} {ext : Bool} {bsize : Half} {data : Bytes} (h : s.linkOpen = true)
    (c : transferOutOfRange bsize data.length s = true) :
    sendBufferBody ext bsize data s = .next (refuseTransfer .outOfRangeParameter s) := by
  simp [sendBufferBody, h, c]

/-- A transfer on a closed link (42_block_transfer.md R241). -/
theorem sendBufferBody_closed {s : State} (h : s.linkOpen = false) (ext : Bool) (bsize : Half) (data : Bytes) :
    sendBufferBody ext bsize data s = .next (refuseTransfer .channelError s) := by
  simp [sendBufferBody, h]

end Sys2Proof.Machine
end

