-- ==== Sys2Proof/Laws/Commands.lean ====
section
/-! SUPPORT. Commands as a whole: a command is its body between the acceptance and the response; what no instruction writes;
what a step does with a request. -/

namespace Sys2Proof.Machine

/-- The state that a command leaves, from what its body leaves: the events of the body, the response, the port ready. -/
theorem respond_eq_ended {s t : State} {events : List Event} (h : t.trace = s.trace ++ events) :
    respond t = { (s.ended events t.res) with
      toggle := t.toggle, linkOpen := t.linkOpen, savedParams := t.savedParams, tx := t.tx, bt := t.bt, mem := t.mem
      cfg := t.cfg, build := t.build, pending := t.pending, link := t.link, hostRes := t.hostRes
      resetInput := t.resetInput, hangIn := t.hangIn } := by
  apply State.eq_of_fields <;> simp [State.ended, h, responseOf]

/-! ## What no instruction writes -/

/-- The fields that no instruction writes, and the trace, which it only makes longer. -/
structure ExecKeeps (s t : State) : Prop where
  build : t.build = s.build
  pending : t.pending = s.pending
  resetInput : t.resetInput = s.resetInput
  hangIn : t.hangIn = s.hangIn
  trace : s.trace <+: t.trace

theorem command_keeps {body : State → State} (h : ∀ s, ExecKeeps s (body s)) (s : State) : ExecKeeps s (command body s) := by
  have k := h (accept s)
  exact ⟨k.build, k.pending, k.resetInput, k.hangIn, k.trace.trans (List.prefix_append _ _)⟩

theorem ExecKeeps.of_trace_eq {s t : State} (build : t.build = s.build) (pending : t.pending = s.pending)
    (resetInput : t.resetInput = s.resetInput) (hangIn : t.hangIn = s.hangIn) (trace : t.trace = s.trace) :
    ExecKeeps s t := ⟨build, pending, resetInput, hangIn, trace ▸ List.prefix_rfl⟩

theorem encodeBody_keeps (opc : Byte) (params : Bytes) (s : State) : ExecKeeps s (encodeBody opc params s) := by
  unfold encodeBody
  split <;> apply ExecKeeps.of_trace_eq <;> simp

theorem decodeBody_keeps (quiet : Bool) (raw : Bytes) (s : State) : ExecKeeps s (decodeBody quiet raw s) := by
  unfold decodeBody
  dsimp only
  split
  · apply ExecKeeps.of_trace_eq <;> rfl
  · constructor
    case trace =>
      rcases maybeDiag_trace quiet (decodeFrame s.cfg.fast raw).2 (raiseError .decodeError
        (setPayload (some (decodeFrame s.cfg.fast raw).2) (setValid (decodeFrame s.cfg.fast raw).1 s))) with e | ⟨_, e⟩ <;>
        rw [e] <;> simp
    all_goals simp

theorem transceiveBody_keeps (opc : Byte) (params : Bytes) (tmo : Half) (ign : Bool) (s : State) :
    ExecKeeps s (transceiveBody opc params tmo ign s) :=
  ⟨by simp [transceiveBody], by simp [transceiveBody], by simp [transceiveBody], by simp [transceiveBody],
    (transceive_grows opc params tmo ign s).trace⟩

theorem sessionStartBody_keeps (tp : Bytes) (s : State) : ExecKeeps s (sessionStartBody tp s) := by
  constructor <;> simp only [sessionStartBody, finishOpen, closeIfOpen] <;> split <;> simp

theorem sessionEndBody_keeps (s : State) : ExecKeeps s (sessionEndBody s) := by
  constructor <;> simp only [sessionEndBody, closeIfOpen] <;> split <;> simp

theorem cfgWriteBody_keeps (addr : Byte) (v : Word) (s : State) : ExecKeeps s (cfgWriteBody addr v s) := by
  unfold cfgWriteBody
  split <;> apply ExecKeeps.of_trace_eq <;> rfl

theorem cfgReadBody_keeps (addr : Byte) (s : State) : ExecKeeps s (cfgReadBody addr s) := by
  unfold cfgReadBody
  split <;> apply ExecKeeps.of_trace_eq <;> rfl

theorem sendBufferBody_keeps {ext : Bool} {bsize : Half} {data : Bytes} {s t : State}
    (h : sendBufferBody ext bsize data s = .next t) : ExecKeeps s t := by
  cases l : s.linkOpen with
  | false =>
    rw [sendBufferBody_closed l, Host.Outcome.next.injEq] at h
    subst h; apply ExecKeeps.of_trace_eq <;> rfl
  | true =>
    cases c : transferOutOfRange bsize data.length s with
    | true =>
      rw [sendBufferBody_refused l c, Host.Outcome.next.injEq] at h
      subst h; apply ExecKeeps.of_trace_eq <;> rfl
    | false =>
      rw [sendBufferBody_started l c] at h
      have k := sendBlocks_keeps h
      exact ⟨k.build, k.pending, k.resetInput, k.hangIn, k.trace⟩

theorem wrapper_keeps {ign : Bool} {opc : Byte} {params : Bytes} {tmo : Half} {s t : State}
    (h : wrapper ign opc params tmo s = .next t) : ExecKeeps s t := by
  simp only [wrapper, Host.Outcome.next.injEq] at h
  subst h
  have k := command_keeps (transceiveBody_keeps opc params tmo ign) s
  exact ⟨k.build, k.pending, k.resetInput, k.hangIn, k.trace⟩

theorem checkedWrapper_keeps {ok ign : Bool} {opc : Byte} {params : Bytes} {tmo : Half} {s t : State}
    (h : checkedWrapper ok ign opc params tmo s = .next t) : ExecKeeps s t := by
  unfold checkedWrapper at h
  split at h
  · exact wrapper_keeps h
  · simp only [Host.Outcome.next.injEq] at h
    subst h; apply ExecKeeps.of_trace_eq <;> rfl

/-- The build parameters, the requests, the reset input and the LINK's hang are no instruction's to write. -/
theorem exec_keeps {i : Instr} {s t : State} (h : exec i s = .next t) : ExecKeeps s t := by
  cases i
  case nop =>
    cases h; exact command_keeps (fun _ => by apply ExecKeeps.of_trace_eq <;> rfl) s
  case encode opc params => cases h; exact command_keeps (encodeBody_keeps opc params) s
  case decode quiet raw => cases h; exact command_keeps (decodeBody_keeps quiet raw) s
  case transceive ign opc params tmo => cases h; exact command_keeps (transceiveBody_keeps opc params tmo ign) s
  case sendBuffer ext bsize data =>
    simp only [exec, execSendBuffer, runCommand] at h
    split at h
    · rename_i u e
      cases h
      have k := sendBufferBody_keeps e
      exact ⟨k.build, k.pending, k.resetInput, k.hangIn, k.trace.trans (List.prefix_append _ _)⟩
    · cases h
    · cases h
  case sessionStart tp => cases h; exact command_keeps (sessionStartBody_keeps tp) s
  case sessionEnd => cases h; exact command_keeps sessionEndBody_keeps s
  case cfgWrite addr v => cases h; exact command_keeps (cfgWriteBody_keeps addr v) s
  case cfgRead addr => cases h; exact command_keeps (cfgReadBody_keeps addr) s
  case statusRead =>
    cases h; exact command_keeps (fun _ => by apply ExecKeeps.of_trace_eq <;> rfl) s
  all_goals first | exact wrapper_keeps h | exact checkedWrapper_keeps h

theorem execIllegal_keeps {s t : State} (h : execIllegal s = .next t) : ExecKeeps s t := by
  cases h; exact command_keeps (fun _ => by apply ExecKeeps.of_trace_eq <;> rfl) s

/-! ## One step -/

/-- The step of an IDLE CORE with a request, where no reset comes before it. -/
theorem step_request {s : State} {r : Request} {later : List Request} (idle : s.cmdState = .idle)
    (input : s.resetInput ≠ .betweenCommands) (pend : s.pending = r :: later) :
    step s =
      match readRequest r with
      | .run i => settleResult (s.setPending later) (exec i (s.setPending later))
      | .illegal => settleResult (s.setPending later) (execIllegal (s.setPending later))
      | .refused e => .refused e := by
  unfold step
  split
  · rename_i e; exact absurd e input
  all_goals
    cases hr : readRequest r <;> simp only [idle, pend, hr]

theorem spendCalls_none {s : State} (h : s.hangIn = none) (events : List Event) : spendCalls events s = s := by
  apply State.eq_of_fields <;> simp [spendCalls, h]

/-- With a LINK that answers and no reset, what surrounds a command changes nothing. -/
theorem settle_plain {before after : State} (input : before.resetInput = .notAsserted) (hang : before.hangIn = none)
    (keep : after.hangIn = before.hangIn) : settle before after = .next after := by
  simp only [settle, input, hangsAmong, hang]
  rw [spendCalls_none (keep.trans hang)]
  rfl

end Sys2Proof.Machine
end

