-- ==== Sys2Proof/Laws/Host.lean ====
section
/-! SUPPORT. What the steps of the HOST's programs do (45_host_sequences.md), and the parameters of a wrapper as the table says
them. -/

namespace Sys2Proof.Machine

/-! ## Parameter layouts (44_wire_commands.md R310) -/

theorem lo_ofNat (v : Nat) : lo (BitVec.ofNat 16 v) = BitVec.ofNat 8 v := by
  apply BitVec.eq_of_toNat_eq
  simp [lo, BitVec.extractLsb'_toNat]

theorem hi_ofNat (v : Nat) : hi (BitVec.ofNat 16 v) = BitVec.ofNat 8 (v / 256) := by
  apply BitVec.eq_of_toNat_eq
  simp [hi, BitVec.extractLsb'_toNat, Nat.shiftRight_eq_div_pow]
  omega

/-- The machine's parameter bytes are those that the layout says. -/
theorem paramBytes_eq_layoutBytes (layout : List ParamByte) (vs : List Nat) :
    paramBytes layout (vs.map (BitVec.ofNat 16)) = layoutBytes layout vs := by
  refine List.map_congr_left fun p _ => ?_
  have operand (k : Nat) : (vs.map (BitVec.ofNat 16)).getD k 0 = BitVec.ofNat 16 (vs.getD k 0) := by
    simp only [List.getD_eq_getElem?_getD, List.getElem?_map]
    cases vs[k]? <;> rfl
  cases p with
  | fixed b => rfl
  | low k => simp only [ParamByte.value, operand, lo_ofNat]
  | high k => simp only [ParamByte.value, operand, hi_ofNat]

/-! ## Steps of a program -/

@[simp] theorem andThen_next (h : HostRun) (f : HostRun → HostOutcome) : andThen (.next h) f = f h := rfl

theorem thenDo_running {h : HostRun} (hs : h.stage ≠ .aborted) (f : HostRun → HostOutcome) : thenDo (.next h) f = f h := by
  simp [thenDo, hs]

/-- No step follows a failed one (R340). -/
theorem thenDo_aborted {h : HostRun} (hs : h.stage = .aborted) (f : HostRun → HostOutcome) :
    thenDo (.next h) f = .next h := by
  simp [thenDo, hs]

theorem HostRun.run_next {i : Instr} {h : HostRun} {t : State} (ht : exec i h.core = .next t) :
    h.run i = .next { h with core := t } := by
  simp [HostRun.run, HostRun.onCore, ht]

@[simp] theorem HostRun.abort_core (e : HostError) (h : HostRun) : (h.abort e).core = h.core := rfl
@[simp] theorem HostRun.abort_stage (e : HostError) (h : HostRun) : (h.abort e).stage = .aborted := rfl
@[simp] theorem HostRun.abort_error (e : HostError) (h : HostRun) : (h.abort e).error = some e := rfl
@[simp] theorem HostRun.abort_reports (e : HostError) (h : HostRun) : (h.abort e).reports = h.reports := rfl

/-- One step that is one command: it succeeds with its report, or aborts with its error and a failed report. -/
theorem hostCommand_next {name : StepName} {i : Instr} {verdict : State → Option HostError} {h : HostRun} {t : State}
    (ht : exec i h.core = .next t) :
    hostCommand name i verdict h = .next (
      match verdict t with
      | none => { h with core := t, reports := h.reports ++ [⟨h.stage, name, true⟩] }
      | some e => ⟨t, .aborted, some e, h.reports ++ [⟨h.stage, name, false⟩]⟩) := by
  simp only [hostCommand, HostRun.run_next ht, andThen_next, HostRun.conclude]
  cases verdict t <;> rfl

/-- After an error that is no block-transfer abort nothing is read (R353). -/
theorem readFailedBlock_skips {h : HostRun} (he : ∀ e, h.error = some e → e.err.ofTransferAbort = false) :
    readFailedBlock h = .next h := by
  unfold readFailedBlock
  split
  · rfl
  · next e h' => simp [he e h']

end Sys2Proof.Machine
end

