-- ==== Sys2Proof/Laws/PerInstr.lean ====
section
/-! SUPPORT. A statement about every instruction, one lemma per constructor of `Instr`: the first byte of its encoding is the
word of its row of spec/opcode_table.json. -/

namespace Sys2Proof.Laws.TableWord

/-- The encoding, the match and the mask of an instruction's row (spec/opcode_table.json; 30_encoding.md R122,
44_wire_commands.md R310). -/
def row : Instr → Port × Byte × Byte
  | .nop => (.command, 0x00, 0xFF)
  | .encode _ _ => (.command, 0x01, 0xFF)
  | .decode _ _ => (.command, 0x02, 0xEF)
  | .transceive _ _ _ _ => (.command, 0x03, 0xEF)
  | .sendBuffer _ _ _ => (.command, 0x04, 0xEF)
  | .sessionStart _ => (.command, 0x05, 0xFF)
  | .sessionEnd => (.command, 0x06, 0xFF)
  | .cfgWrite _ _ => (.command, 0x07, 0xFF)
  | .cfgRead _ => (.command, 0x08, 0xFF)
  | .statusRead => (.command, 0x09, 0xFF)
  | .ping _ => (.wire, 0x10, 0xF7)
  | .getVersions _ => (.wire, 0x15, 0xF7)
  | .getBatteryPower _ => (.wire, 0x30, 0xF7)
  | .selectProgram _ _ => (.wire, 0x91, 0xF7)
  | .stopAllTasks _ => (.wire, 0x50, 0xF7)
  | .deleteAllTasks _ => (.wire, 0x40, 0xF7)
  | .deleteAllSubs _ => (.wire, 0x70, 0xF7)
  | .beginTaskDownload _ _ _ => (.wire, 0x25, 0xF7)
  | .continueDownload _ _ _ => (.wire, 0x45, 0xF7)
  | .goIntoBootMode _ => (.wire, 0x65, 0xF7)
  | .beginFirmwareDownload _ _ _ => (.wire, 0x75, 0xF7)
  | .unlockFirmware _ => (.wire, 0xA5, 0xF7)
  | .remote _ _ => (.wire, 0xD2, 0xF7)
  | .playTone _ _ _ => (.wire, 0x23, 0xF7)
  | .playSystemSound _ _ => (.wire, 0x51, 0xF7)

/-- The encoding of the instruction is that of its row, and starts with a byte that the row matches. -/
def Statement (i : Instr) : Prop :=
  i.port = (row i).1 ∧ ∃ op rest, encode i = op :: rest ∧ op &&& (row i).2.2 = (row i).2.1

theorem nop : Statement (.nop) := ⟨rfl, _, _, rfl, by simp only [row]; decide⟩
theorem encode (opc : Byte) (params : Bytes) : Statement (.encode opc params) := ⟨rfl, _, _, rfl, by simp only [row]; decide⟩
theorem decode (quiet : Bool) (raw : Bytes) : Statement (.decode quiet raw) := by
  cases quiet <;> exact ⟨rfl, _, _, rfl, by simp only [row]; decide⟩
theorem transceive (ign : Bool) (opc : Byte) (params : Bytes) (tmo : Half) : Statement (.transceive ign opc params tmo) := by
  cases ign <;> exact ⟨rfl, _, _, rfl, by simp only [row]; decide⟩
theorem sendBuffer (ext : Bool) (bsize : Half) (data : Bytes) : Statement (.sendBuffer ext bsize data) := by
  cases ext <;> exact ⟨rfl, _, _, rfl, by simp only [row]; decide⟩
theorem sessionStart (tp : Bytes) : Statement (.sessionStart tp) := ⟨rfl, _, _, rfl, by simp only [row]; decide⟩
theorem sessionEnd : Statement (.sessionEnd) := ⟨rfl, _, _, rfl, by simp only [row]; decide⟩
theorem cfgWrite (addr : Byte) (v : Word) : Statement (.cfgWrite addr v) := ⟨rfl, _, _, rfl, by simp only [row]; decide⟩
theorem cfgRead (addr : Byte) : Statement (.cfgRead addr) := ⟨rfl, _, _, rfl, by simp only [row]; decide⟩
theorem statusRead : Statement (.statusRead) := ⟨rfl, _, _, rfl, by simp only [row]; decide⟩
theorem ping (t : Half) : Statement (.ping t) := ⟨rfl, _, _, rfl, by simp only [row]; decide⟩
theorem getVersions (t : Half) : Statement (.getVersions t) := ⟨rfl, _, _, rfl, by simp only [row]; decide⟩
theorem getBatteryPower (t : Half) : Statement (.getBatteryPower t) := ⟨rfl, _, _, rfl, by simp only [row]; decide⟩
theorem selectProgram (slot : Word) (t : Half) : Statement (.selectProgram slot t) :=
  ⟨rfl, _, _, rfl, by simp only [row]; decide⟩
theorem stopAllTasks (t : Half) : Statement (.stopAllTasks t) := ⟨rfl, _, _, rfl, by simp only [row]; decide⟩
theorem deleteAllTasks (t : Half) : Statement (.deleteAllTasks t) := ⟨rfl, _, _, rfl, by simp only [row]; decide⟩
theorem deleteAllSubs (t : Half) : Statement (.deleteAllSubs t) := ⟨rfl, _, _, rfl, by simp only [row]; decide⟩
theorem beginTaskDownload (task : Byte) (size : Word) (t : Half) : Statement (.beginTaskDownload task size t) :=
  ⟨rfl, _, _, rfl, by simp only [row]; decide⟩
theorem continueDownload (idx : Half) (data : Bytes) (t : Half) : Statement (.continueDownload idx data t) :=
  ⟨rfl, _, _, rfl, by simp only [row]; decide⟩
theorem goIntoBootMode (t : Half) : Statement (.goIntoBootMode t) := ⟨rfl, _, _, rfl, by simp only [row]; decide⟩
theorem beginFirmwareDownload (addr cs t : Half) : Statement (.beginFirmwareDownload addr cs t) :=
  ⟨rfl, _, _, rfl, by simp only [row]; decide⟩
theorem unlockFirmware (t : Half) : Statement (.unlockFirmware t) := ⟨rfl, _, _, rfl, by simp only [row]; decide⟩
theorem remote (msg t : Half) : Statement (.remote msg t) := ⟨rfl, _, _, rfl, by simp only [row]; decide⟩
theorem playTone (freq dur : Word) (t : Half) : Statement (.playTone freq dur t) := ⟨rfl, _, _, rfl, by simp only [row]; decide⟩
theorem playSystemSound (sound : Word) (t : Half) : Statement (.playSystemSound sound t) :=
  ⟨rfl, _, _, rfl, by simp only [row]; decide⟩

end Sys2Proof.Laws.TableWord
end

