-- ==== Sys2Proof/Laws/Trace.lean ====
section
/-! SUPPORT. The events of a command: how the views of the trace compose, and what an exchange and a block add to it. -/

namespace Sys2Proof.Machine

/-! ## Views of the trace -/

@[simp] theorem framesWritten_append (es fs : List Event) :
    framesWritten (es ++ fs) = framesWritten es ++ framesWritten fs := by
  induction es with
  | nil => rfl
  | cons e es ih => cases e <;> simp [framesWritten, ih]

@[simp] theorem progressOf_append (es fs : List Event) : progressOf (es ++ fs) = progressOf es ++ progressOf fs := by
  induction es with
  | nil => rfl
  | cons e es ih => cases e <;> simp [progressOf, ih]

@[simp] theorem linkCalls_append (es fs : List Event) : linkCalls (es ++ fs) = linkCalls es + linkCalls fs := by
  simp [linkCalls]

theorem eventsSince_eq {s t : State} {es : List Event} (h : t.trace = s.trace ++ es) : t.eventsSince s = es := by
  simp [State.eventsSince, h]

theorem trace_eq_of_prefix {s t : State} (h : s.trace <+: t.trace) : t.trace = s.trace ++ t.eventsSince s := by
  obtain ⟨es, e⟩ := h
  rw [eventsSince_eq e.symm, e]

/-! ## What a stage of an exchange or of a transfer adds -/

/-- `t` comes after `s` by some events, no response among them, with at most `frames` frames and the progress events `ps`, and
with TOGGLE inverted once for each frame, where no reconnect clears it. -/
structure Adds (frames : Nat) (ps : List (BlockOrdinal × BlockOrdinal × Word)) (s t : State) : Prop where
  trace : s.trace <+: t.trace
  quiet : ∀ e ∈ t.eventsSince s, e.isResponse = false
  few : (framesWritten (t.eventsSince s)).length ≤ frames
  progress : progressOf (t.eventsSince s) = ps
  toggle : s.cfg.resetOnReconnect = false →
    t.toggle = (s.toggle ^^ decide ((framesWritten (t.eventsSince s)).length % 2 = 1))
  cfg : t.cfg = s.cfg

theorem Adds.of_trace {frames : Nat} {ps : List (BlockOrdinal × BlockOrdinal × Word)} {s t : State} {es : List Event}
    (h : t.trace = s.trace ++ es) (quiet : ∀ e ∈ es, e.isResponse = false) (few : (framesWritten es).length ≤ frames)
    (progress : progressOf es = ps)
    (toggle : s.cfg.resetOnReconnect = false → t.toggle = (s.toggle ^^ decide ((framesWritten es).length % 2 = 1)))
    (cfg : t.cfg = s.cfg) : Adds frames ps s t := by
  have e := eventsSince_eq h
  exact ⟨⟨es, h.symm⟩, by rwa [e], by rwa [e], by rwa [e], by rwa [e], cfg⟩

theorem Adds.same {s t : State} (trace : t.trace = s.trace) (toggle : t.toggle = s.toggle) (cfg : t.cfg = s.cfg) :
    Adds 0 [] s t :=
  Adds.of_trace (es := []) (by simp [trace]) (by simp) (by simp [framesWritten]) rfl (by simp [framesWritten, toggle]) cfg

theorem Adds.trans {m n : Nat} {ps qs : List (BlockOrdinal × BlockOrdinal × Word)} {a b c : State} (h : Adds m ps a b)
    (g : Adds n qs b c) : Adds (m + n) (ps ++ qs) a c := by
  have hb := trace_eq_of_prefix h.trace
  have hc := trace_eq_of_prefix g.trace
  rw [hb, List.append_assoc] at hc
  refine Adds.of_trace hc ?_ ?_ ?_ ?_ (g.cfg.trans h.cfg)
  · intro e he
    rcases List.mem_append.1 he with he | he
    · exact h.quiet e he
    · exact g.quiet e he
  · rw [framesWritten_append, List.length_append]
    exact Nat.add_le_add h.few g.few
  · rw [progressOf_append, h.progress, g.progress]
  · intro off
    rw [g.toggle (by rw [h.cfg]; exact off), h.toggle off, framesWritten_append, List.length_append, Bool.xor_assoc]
    congr 1
    rcases Nat.mod_two_eq_zero_or_one (framesWritten (b.eventsSince a)).length with x | x <;>
      rcases Nat.mod_two_eq_zero_or_one (framesWritten (c.eventsSince b)).length with y | y <;>
      simp [x, y, Nat.add_mod]

theorem Adds.weaken {m n : Nat} {ps : List (BlockOrdinal × BlockOrdinal × Word)} {s t : State} (h : Adds m ps s t) (le : m ≤ n) :
    Adds n ps s t := ⟨h.trace, h.quiet, Nat.le_trans h.few le, h.progress, h.toggle, h.cfg⟩

/-- A reconnect clears TOGGLE only where it is configured to (41_transceiver.md R211). -/
theorem reconnect_toggle (s : State) : (reconnect s).toggle = (s.toggle && !s.cfg.resetOnReconnect) := by
  unfold reconnect reconnectToggle
  simp only [openSaved_cfg, closeLink_cfg, enterTx_cfg]
  split <;> simp_all

/-- A reconnect closes, and opens where it can (41_transceiver.md R211). -/
theorem reconnect_adds (s : State) : Adds 0 [] s (reconnect s) := by
  have t : s.cfg.resetOnReconnect = false → (reconnect s).toggle = s.toggle := by
    intro off
    rw [reconnect_toggle, off]
    simp
  cases p : s.savedParams with
  | none =>
    refine Adds.of_trace (es := [.closed]) ?_ (by simp [Event.isResponse]) (by simp [framesWritten]) rfl
      (by simpa [framesWritten] using t) (by simp)
    simp only [reconnect, reconnectToggle, openSaved, closeLink_savedParams, enterTx_savedParams, p]
    split <;> simp
  | some q =>
    refine Adds.of_trace (es := [.closed, .opened q (openAnswer (closeLink (enterTx .reconnect s)))]) ?_
      (by simp [Event.isResponse]) (by simp [framesWritten]) rfl (by simpa [framesWritten] using t) (by simp)
    simp only [reconnect, reconnectToggle, openSaved, closeLink_savedParams, enterTx_savedParams, p]
    split <;> simp

theorem checkRead_adds (frame : Bytes) (ign : Bool) (a : ReadAnswer) (s : State) :
    Adds 0 [] s (checkRead frame ign a s) := by
  unfold checkRead
  split
  · exact Adds.same (by simp) (by simp) (by simp)
  · split
    · exact (reconnect_adds s).trans (Adds.same (by simp) (by simp) (by simp))
    · exact Adds.same (by simp) (by simp) (by simp)

/-- An exchange writes at most one frame, and TOGGLE inverts with it (40_frame_codec.md R162; 41_transceiver.md R202). -/
theorem transceive_adds (opc : Byte) (params : Bytes) (tmo : Half) (ign : Bool) (s : State) :
    Adds 1 [] s (transceive opc params tmo ign s) := by
  cases h : s.linkOpen with
  | false =>
    rw [transceive_closed h]
    have k : Adds 0 [] s (failExchange .channelError (exchangeStart tmo ign s)) := Adds.same rfl rfl rfl
    exact k.weaken (Nat.zero_le 1)
  | true =>
    cases c : encodeCheck s.build opc params.length with
    | some e =>
      rw [transceive_refused h c]
      have k : Adds 0 [] s (failExchange e (enterTx .sending (exchangeStart tmo ign s))) := Adds.same rfl rfl rfl
      exact k.weaken (Nat.zero_le 1)
    | none =>
      rw [transceive_sent h c]
      generalize frameOf s.cfg.fast (mixToggle s.toggle opc) params = f
      generalize mixToggle s.toggle opc = op
      have w : ∀ ok : Bool, writeAnswer (exchangeSending f op tmo ign s) = ok →
          Adds 1 [] s (txWrite f (exchangeSending f op tmo ign s)) := fun ok e =>
        Adds.of_trace (es := [.wrote f ok]) (by simp [e]) (by simp [Event.isResponse]) (by simp [framesWritten]) rfl
          (by simp [framesWritten]) (by simp)
      unfold writeFrame
      split
      · rename_i ok
        refine (w true ok).trans (n := 0) (qs := []) ?_
        unfold awaitAnswer
        refine Adds.trans (m := 0) (ps := []) ?_ (checkRead_adds _ _ _ _)
        exact Adds.of_trace (es := [.delayed tmo.toNat, .received tmo.toNat _]) (by simp; rfl) (by simp [Event.isResponse])
          (by simp [framesWritten]) rfl (by simp [framesWritten]) (by simp)
      · rename_i ok
        exact ((w false (by simpa using ok)).trans (reconnect_adds _)).trans (Adds.same (by simp) (by simp) (by simp))

theorem attempt_adds (params : Bytes) (tmo : Half) (s : State) : Adds 1 [] s (attempt params tmo s) := by
  have h := transceive_adds s.build.opcCont params tmo false (enterBt .send s)
  have k : Adds 0 [] s (enterBt .send s) := Adds.same rfl rfl rfl
  have l := k.trans h
  unfold attempt
  dsimp only
  split
  · have r : ∀ u, Adds 0 [] u (recordStatus u) := fun u => Adds.same rfl rfl rfl
    exact l.trans (r _)
  · exact l

theorem probe_adds (s : State) : Adds 1 [] s (probe s) :=
  (Adds.same (s := s) (t := enterBt .probe s) rfl rfl rfl).trans
    (transceive_adds Config.opcPing [] s.cfg.tBaseMs true (enterBt .probe s))

theorem backoff_adds (s : State) : Adds 0 [] s (backoff s) :=
  Adds.of_trace (es := [.delayed _]) rfl (by simp [Event.isResponse]) (by simp [framesWritten]) rfl
    (by simp [framesWritten, backoff]) rfl

theorem acknowledge_adds (s : State) :
    Adds 0 [(s.bt.ord, s.bt.nblocks, (acknowledge s).bt.elapsed)] s (acknowledge s) :=
  Adds.of_trace (es := [.progress s.bt.ord s.bt.nblocks (acknowledge s).bt.elapsed]) rfl (by simp [Event.isResponse])
    (by simp [framesWritten]) rfl (by simp [framesWritten, acknowledge]) rfl

/-- The elapsed time of a transfer never falls (42_block_transfer.md R247). -/
theorem acknowledge_elapsed (s : State) : s.bt.elapsed ≤ (acknowledge s).bt.elapsed := by
  show s.bt.elapsed ≤ elapsedAnswer s
  unfold elapsedAnswer
  dsimp only
  split
  · assumption
  · exact BitVec.le_refl _

/-! ## TX_IGNORE -/

@[simp] theorem reconnect_ignore (s : State) : (reconnect s).tx.ignore = s.tx.ignore := by
  unfold reconnect reconnectToggle openSaved
  split <;> split <;> simp

@[simp] theorem checkReply_ignore (rem : Bytes) (s : State) : (checkReply rem s).tx.ignore = s.tx.ignore := by
  unfold checkReply
  dsimp only
  split
  · split
    · rfl
    · split <;> rfl
  · rfl

@[simp] theorem checkEcho_ignore (frame rx : Bytes) (s : State) : (checkEcho frame rx s).tx.ignore = s.tx.ignore := by
  unfold checkEcho
  split <;> simp

@[simp] theorem checkRead_ignore (frame : Bytes) (ign : Bool) (a : ReadAnswer) (s : State) :
    (checkRead frame ign a s).tx.ignore = s.tx.ignore := by
  unfold checkRead
  split
  · rfl
  · split <;> simp

@[simp] theorem writeFrame_ignore (frame : Bytes) (tmo : Half) (ign : Bool) (s : State) :
    (writeFrame frame tmo ign s).tx.ignore = s.tx.ignore := by
  unfold writeFrame
  split <;> simp [awaitAnswer]

/-- TX_IGNORE holds the flag of the last exchange (10_state.md R36). -/
@[simp] theorem transceive_ignore (opc : Byte) (params : Bytes) (tmo : Half) (ign : Bool) (s : State) :
    (transceive opc params tmo ign s).tx.ignore = ign := by
  cases h : s.linkOpen with
  | false => rw [transceive_closed h]; rfl
  | true =>
    cases c : encodeCheck s.build opc params.length with
    | some e => rw [transceive_refused h c]; rfl
    | none => rw [transceive_sent h c, writeFrame_ignore]; rfl

end Sys2Proof.Machine
end

