-- ==== Sys2Proof/Tests/Slice0.lean ====
section
/-! SUPPORT. Small tests, each of one step or less. The expected values are those of spec/95_test_vectors.md (cited by their
number there), or written out from the encodings of spec/30_encoding.md; where a test of a wrapper call's bytes rests on the
model's layout, it says so (log 2). At the end, for every obligation with hypotheses, a state that meets them. -/

namespace Sys2Proof.Tests

open Sys2Proof.Machine

/-! ## States to test on -/

/-- The default constants of 00_scope.md R10, with the timeouts of 95_test_vectors.md section 0. -/
def testBuild : Build where
  maxParamsOver7 := none
  bufCap := 64
  slotMinIsOne := false
  tBaseMs := 150
  tExtMs := 300
  opcCont := 0x45
  opcRemote := 0xD2
  stOkay := 0x00
  stBlockCksum := 0x03
  stFwCksum := 0x04
  stNotActive := 0x06
  stNotEnoughMemory := 0x01
  stIllegalNumber := 0x02
  soundMax := 5
  wire := Config.wireTable

/-- "After reset". -/
def afterReset : State := State.resetOf testBuild

/-- "Session open" (95_test_vectors.md section 0), with the LINK's answers to come. -/
def opened (writes : List Bool) (reads : List ReadAnswer) : State :=
  { afterReset with
    linkOpen := true, savedParams := some [0x70]
    link := { opens := [true], writes := writes, reads := reads, elapsed := [5, 9] } }

/-- The LINK answers one exchange with these bytes. -/
def answering (rx : Bytes) : State := opened [true] [⟨rx, false⟩]

/-- The state an instruction leaves, where `exec` answers a next state. -/
def after (i : Instr) (s : State) : Option State :=
  match exec i s with
  | .next t => some t
  | _ => none

/-- The value the next STATUS_READ returns. -/
def statusAfter (i : Instr) (s : State) : Option Word := (after i s).map statusWord

/-- RES_OK, RES_ERR and RES_PAYLOAD after an instruction. -/
def resultOf (i : Instr) (s : State) : Option (Bool × ErrCode × Option Bytes) :=
  (after i s).map fun t => (t.res.ok, t.res.err, t.res.payload)

/-- The frames an instruction writes. -/
def writtenBy (i : Instr) (s : State) : Option (List Bytes) := (after i s).map fun t => framesWritten t.trace

/-- RES_VALUE after CFG_READ. -/
def readsValue (addr : Byte) (s : State) : Option Word := (after (.cfgRead addr) s).map fun t => t.res.value

/-! ## WellFormed refuses a byte string longer than its length field -/

/-- A byte string of 2^32 bytes. -/
def tooLong : Bytes := List.replicate (2 ^ 32) 0

theorem test_fitsLength_refuses : fitsLength tooLong = false := by
  simp only [fitsLength, tooLong, List.length_replicate, Nat.lt_irrefl, decide_false]
theorem test_wellFormed_encode : (Instr.encode 0x45 tooLong).wellFormed = false := test_fitsLength_refuses
theorem test_wellFormed_decode : (Instr.decode false tooLong).wellFormed = false := test_fitsLength_refuses
theorem test_wellFormed_transceive : (Instr.transceive false 0x45 tooLong 150).wellFormed = false := test_fitsLength_refuses
theorem test_wellFormed_sendBuffer : (Instr.sendBuffer false 20 tooLong).wellFormed = false := test_fitsLength_refuses
theorem test_wellFormed_sessionStart : (Instr.sessionStart tooLong).wellFormed = false := test_fitsLength_refuses
theorem test_wellFormed_continueDownload : (Instr.continueDownload 0 tooLong 150).wellFormed = false :=
  test_fitsLength_refuses
theorem test_wellFormed_accepts : (Instr.encode 0x10 []).wellFormed = true := by decide

/-! ## Decoding, the bytes written out from 30_encoding.md R121, R122 (and section 5 of the vectors) -/

theorem test_decode_nop : decode .command [0b00000000] = .instr .nop [] := by decide
theorem test_decode_encode : decode .command [0b00000001, 0x10, 0, 0, 0, 0] = .instr (.encode 0x10 []) [] := by decide
theorem test_decode_decode :
    decode .command [0b00010010, 4, 0, 0, 0, 0xEF, 0x10, 0xEF, 0x10] = .instr (.decode true [0xEF, 0x10, 0xEF, 0x10]) [] := by
  decide
theorem test_decode_transceive :
    decode .command [0b00010011, 0x65, 5, 0, 0, 0, 0x01, 0x03, 0x05, 0x07, 0x0B, 0x96, 0x00] =
      .instr (.transceive true 0x65 [0x01, 0x03, 0x05, 0x07, 0x0B] 150) [] := by decide
theorem test_decode_sendBuffer :
    decode .command [0b00000100, 0x14, 0x00, 5, 0, 0, 0, 0x10, 0x20, 0x30, 0x40, 0x50] =
      .instr (.sendBuffer false 20 [0x10, 0x20, 0x30, 0x40, 0x50]) [] := by decide
theorem test_decode_sendBuffer_extended :
    decode .command [0b00010100, 0x04, 0x00, 3, 0, 0, 0, 1, 2, 3] = .instr (.sendBuffer true 4 [1, 2, 3]) [] := by decide
theorem test_decode_sessionStart : decode .command [0b00000101, 1, 0, 0, 0, 0x70] = .instr (.sessionStart [0x70]) [] := by
  decide
theorem test_decode_sessionEnd : decode .command [0b00000110] = .instr .sessionEnd [] := by decide
theorem test_decode_cfgWrite :
    decode .command [0b00000111, 0x03, 0x05, 0x01, 0x64, 0x00] = .instr (.cfgWrite 0x03 0x00640105) [] := by decide
theorem test_decode_cfgRead : decode .command [0b00001000, 0x13] = .instr (.cfgRead 0x13) [] := by decide
theorem test_decode_statusRead : decode .command [0b00001001] = .instr .statusRead [] := by decide
/-- Vectors K16 to K19. -/
theorem test_decode_illegal :
    ([0x0A, 0x10, 0x20, 0x11] : List Byte).map (fun w => decode .command [w]) = List.replicate 4 Decoded.illegal := by decide

/-! The opcode bytes from 44_wire_commands.md R310; the operands after them as the model lays them out (log 2). -/

theorem test_decode_ping : decode .wire [0b00010000, 0x96, 0x00] = .instr (.ping 150) [] := by decide
theorem test_decode_getVersions : decode .wire [0b00010101, 0x96, 0x00] = .instr (.getVersions 150) [] := by decide
theorem test_decode_getBatteryPower : decode .wire [0b00110000, 0x96, 0x00] = .instr (.getBatteryPower 150) [] := by decide
theorem test_decode_selectProgram :
    decode .wire [0b10010001, 2, 0, 0, 0, 0x96, 0x00] = .instr (.selectProgram 2 150) [] := by decide
theorem test_decode_stopAllTasks : decode .wire [0b01010000, 0x96, 0x00] = .instr (.stopAllTasks 150) [] := by decide
theorem test_decode_deleteAllTasks : decode .wire [0b01000000, 0x96, 0x00] = .instr (.deleteAllTasks 150) [] := by decide
theorem test_decode_deleteAllSubs : decode .wire [0b01110000, 0x96, 0x00] = .instr (.deleteAllSubs 150) [] := by decide
theorem test_decode_beginTaskDownload :
    decode .wire [0b00100101, 1, 0x2D, 0, 0, 0, 0x96, 0x00] = .instr (.beginTaskDownload 1 45 150) [] := by decide
theorem test_decode_continueDownload :
    decode .wire [0b01000101, 7, 0, 2, 0, 0, 0, 0xAA, 0xBB, 0x96, 0x00] = .instr (.continueDownload 7 [0xAA, 0xBB] 150) [] := by
  decide
theorem test_decode_goIntoBootMode : decode .wire [0b01100101, 0x96, 0x00] = .instr (.goIntoBootMode 150) [] := by decide
theorem test_decode_beginFirmwareDownload :
    decode .wire [0b01110101, 0x00, 0x80, 0x00, 0x4C, 0x96, 0x00] = .instr (.beginFirmwareDownload 0x8000 0x4C00 150) [] := by
  decide
theorem test_decode_unlockFirmware : decode .wire [0b10100101, 0x96, 0x00] = .instr (.unlockFirmware 150) [] := by decide
theorem test_decode_remote : decode .wire [0b11010010, 0x01, 0x02, 0x96, 0x00] = .instr (.remote 0x0201 150) [] := by decide
theorem test_decode_playTone :
    decode .wire [0b00100011, 0xB8, 1, 0, 0, 50, 0, 0, 0, 0x96, 0x00] = .instr (.playTone 440 50 150) [] := by decide
theorem test_decode_playSystemSound :
    decode .wire [0b01010001, 1, 0, 0, 0, 0x96, 0x00] = .instr (.playSystemSound 1 150) [] := by decide
/-- A wire byte with bit 3 set is the same opcode (log 5); a byte outside the table is none. -/
theorem test_decode_wire_identity :
    decode .wire [0b00011000, 0x96, 0x00] = .instr (.ping 150) [] ∧ decode .wire [0x11] = .unknown := by decide
theorem test_decode_incomplete : decode .command [0b00000111, 0x03, 0x05] = .incomplete := by decide

/-! ## ENCODE and DECODE (vectors E, D, F) -/

theorem test_encode_E2 :
    resultOf (.encode 0x10 []) { afterReset with toggle := true } =
      some (true, .noErr, some [0x55, 0xFF, 0x00, 0x18, 0xE7, 0x18, 0xE7]) := by decide
theorem test_encode_E3 :
    resultOf (.encode 0x10 [0x00]) afterReset = some (false, .parameterCountMismatch, none) := by decide
theorem test_encode_E12 :
    (encodeResult 0x45 [0x01, 0x00, 0x03, 0x00, 0x01, 0x02, 0x03, 0x06]
      { afterReset with cfg := { afterReset.cfg with fast := true } }).toOption =
      some [0xFF, 0x45, 0x01, 0x00, 0x03, 0x00, 0x01, 0x02, 0x03, 0x06, 0x55] := by decide
theorem test_decode_D15 :
    decodeFrame false [0x55, 0xFF, 0x00, 0xEF, 0x10, 0xEF, 0x10, 0x55, 0xFF] = (false, [0xEF, 0x10, 0xEF, 0x10, 0x55, 0xFF]) := by
  decide
theorem test_decode_D16 :
    decodeFrame false [0x55, 0xFF, 0x00, 0xCF, 0x30, 0x2C, 0xD3, 0x24, 0xDB, 0x1F, 0xE0] = (true, [0xCF, 0x2C, 0x24]) := by
  decide
theorem test_decode_D2 :
    resultOf (.decode true [0xEF, 0x10, 0xEF, 0x10]) afterReset =
      some (false, .decodeError, some [0xEF, 0x10, 0xEF, 0x10]) := by decide
theorem test_decode_F6 :
    resultOf (.decode false [0xFF, 0x00]) { afterReset with cfg := { afterReset.cfg with fast := true } } =
      some (true, .noErr, some []) := by decide

/-! ## TRANSCEIVE (vectors T) -/

/-- The Ping frame. -/
def pingFrame : Bytes := [0x55, 0xFF, 0x00, 0x10, 0xEF, 0x10, 0xEF]

/-- T2: one noise byte before the echo. -/
theorem test_transceive_T2 :
    statusAfter (.transceive false 0x10 [] 150) (answering ([0x00] ++ pingFrame ++ [0x55, 0xFF, 0x00, 0xEF, 0x10, 0xEF, 0x10])) =
      some 0x000005C4 := by decide
/-- T9: a reply for the other toggle value. -/
theorem test_transceive_T9 :
    statusAfter (.transceive false 0x10 [] 150) (answering (pingFrame ++ [0x55, 0xFF, 0x00, 0xE7, 0x18, 0xE7, 0x18])) =
      some 0x000660C5 := by decide

/-! ## SEND_BUFFER (vectors S) -/

/-- The frame A0 or A1 of the block `[01 02 03]` at toggle 0 or 1 (section 4). -/
def frameA (tg : Bool) : Bytes :=
  [0x55, 0xFF, 0x00] ++ (if tg then [0x4D, 0xB2] else [0x45, 0xBA]) ++
    [0x00, 0xFF, 0x00, 0xFF, 0x03, 0xFC, 0x00, 0xFF, 0x01, 0xFE, 0x02, 0xFD, 0x03, 0xFC, 0x06, 0xF9] ++
    (if tg then [0x5C, 0xA3] else [0x54, 0xAB])

/-- S5: status 03, then 00. -/
theorem test_sendBuffer_S5 :
    statusAfter (.sendBuffer false 4 [1, 2, 3])
      (opened [true, true] [⟨frameA false ++ [0x55, 0xFF, 0x00, 0xBA, 0x45, 0x03, 0xFC, 0xBD, 0x42], false⟩,
        ⟨frameA true ++ [0x55, 0xFF, 0x00, 0xB2, 0x4D, 0x00, 0xFF, 0xB2, 0x4D], false⟩]) = some 0x000005AC := by
  decide +kernel
/-- S15: the probe's write fails, the re-open succeeds. -/
theorem test_sendBuffer_S15 :
    statusAfter (.sendBuffer false 4 [1, 2, 3]) (opened [true, false] [⟨frameA false, false⟩]) = some 0x000790B5 := by
  decide +kernel

/-! ## Control commands (vectors K) -/

theorem test_nop : statusAfter .nop (opened [] []) = some 0x00000180 := by decide
/-- K20. -/
theorem test_sessionStart_K20 :
    (after (.sessionStart [0x71]) { opened [] [] with toggle := true }).map
        (fun t => (t.toggle, t.linkOpen, t.savedParams, t.trace.dropLast)) =
      some (false, true, some [0x71], [.closed, .opened [0x71] true]) := by decide
/-- K22. -/
theorem test_sessionEnd_K22 :
    (after .sessionEnd { opened [] [] with toggle := true }).map (fun t => (t.toggle, t.linkOpen, t.trace.dropLast)) =
      some (true, false, [.closed]) := by decide
/-- K12. -/
theorem test_cfgWrite_K12 : resultOf (.cfgWrite 0x08 0) afterReset = some (false, .illegalCommand, none) := by decide
/-- K13. -/
theorem test_cfgWrite_K13 :
    (after (.cfgWrite 0x03 0xFFFFFFFF) afterReset).bind (readsValue 0x03) = some 0xFFFF01FF := by decide
/-- K4, K7, K9, K10. -/
theorem test_cfgRead_constants :
    [0x01, 0x03, 0x08, 0x09].map (fun a => readsValue a afterReset) =
      [some 0x00000001, some 0x0064010A, some 0x00D24510, some 0x06040300] := by decide
/-- K6: `TOGGLE` shows in bit 1. -/
theorem test_cfgRead_K6 : readsValue 0x02 { afterReset with toggle := true } = some 0x00000002 := by decide
/-- K2. -/
theorem test_statusRead_K2 : (after .statusRead afterReset).map (fun t => t.res.value) = some 0x00000000 := by decide

/-! ## Wrappers: the frames of section 6, at toggle 0 -/

/-- A LINK that writes one frame and then reads nothing. -/
def silent : State := opened [true] [⟨[], false⟩]

theorem test_ping_frame : writtenBy (.ping 150) silent = some [pingFrame] := by decide
theorem test_getVersions_frame :
    writtenBy (.getVersions 150) silent =
      some [[0x55, 0xFF, 0x00, 0x15, 0xEA, 0x01, 0xFE, 0x03, 0xFC, 0x05, 0xFA, 0x07, 0xF8, 0x0B, 0xF4, 0x30, 0xCF]] := by decide
/-- Vector 1.5. -/
theorem test_getBatteryPower_reply :
    (after (.getBatteryPower 150) (answering [0x55, 0xFF, 0x00, 0x30, 0xCF, 0x30, 0xCF, 0x55, 0xFF, 0x00, 0xCF, 0x30, 0x2C, 0xD3,
        0x24, 0xDB, 0x1F, 0xE0])).map (fun t => t.hostRes) = some (some ⟨true, .noErr, some [0xCF, 0x2C, 0x24]⟩) := by decide
theorem test_selectProgram_frame :
    writtenBy (.selectProgram 2 150) silent = some [[0x55, 0xFF, 0x00, 0x91, 0x6E, 0x02, 0xFD, 0x93, 0x6C]] := by decide
/-- Section 6: slot 0 where `SLOT_MIN` is 1. -/
theorem test_selectProgram_slotMin :
    (after (.selectProgram 0 150) { silent with build := { testBuild with slotMinIsOne := true } }).map (fun t => t.hostRes) =
      some (some ⟨false, .outOfRangeParameter, none⟩) := by decide
theorem test_stopAllTasks_frame :
    writtenBy (.stopAllTasks 150) silent = some [[0x55, 0xFF, 0x00, 0x50, 0xAF, 0x50, 0xAF]] := by decide
theorem test_deleteAllTasks_frame :
    writtenBy (.deleteAllTasks 150) silent = some [[0x55, 0xFF, 0x00, 0x40, 0xBF, 0x40, 0xBF]] := by decide
theorem test_deleteAllSubs_frame :
    writtenBy (.deleteAllSubs 150) silent = some [[0x55, 0xFF, 0x00, 0x70, 0x8F, 0x70, 0x8F]] := by decide
theorem test_beginTaskDownload_frame :
    writtenBy (.beginTaskDownload 0 32 150) silent =
      some [[0x55, 0xFF, 0x00, 0x25, 0xDA, 0x00, 0xFF, 0x00, 0xFF, 0x00, 0xFF, 0x20, 0xDF, 0x00, 0xFF, 0x45, 0xBA]] := by decide
/-- E12's parameters, in the fast profile. -/
theorem test_continueDownload_frame :
    writtenBy (.continueDownload 1 [1, 2, 3] 150) { silent with cfg := { silent.cfg with fast := true } } =
      some [[0xFF, 0x45, 0x01, 0x00, 0x03, 0x00, 0x01, 0x02, 0x03, 0x06, 0x55]] := by decide
/-- T13: the read's channel error is ignored. -/
theorem test_goIntoBootMode_T13 : statusAfter (.goIntoBootMode 150) (opened [true] [⟨[], true⟩]) = some 0x000005C4 := by decide
theorem test_beginFirmwareDownload_frame :
    writtenBy (.beginFirmwareDownload 0x8000 0x4C00 150) silent =
      some [[0x55, 0xFF, 0x00, 0x75, 0x8A, 0x00, 0xFF, 0x80, 0x7F, 0x00, 0xFF, 0x4C, 0xB3, 0x00, 0xFF, 0x41, 0xBE]] := by decide
theorem test_unlockFirmware_frame :
    writtenBy (.unlockFirmware 150) silent =
      some [[0x55, 0xFF, 0x00, 0xA5, 0x5A, 0x4C, 0xB3, 0x45, 0xBA, 0x47, 0xB8, 0x4F, 0xB0, 0xAE, 0x51, 0x7A, 0x85]] := by decide
theorem test_remote_frame :
    writtenBy (.remote 0x0001 150) silent = some [[0x55, 0xFF, 0x00, 0xD2, 0x2D, 0x00, 0xFF, 0x01, 0xFE, 0xD3, 0x2C]] := by decide
theorem test_playTone_frame :
    writtenBy (.playTone 440 50 150) silent =
      some [[0x55, 0xFF, 0x00, 0x23, 0xDC, 0xB8, 0x47, 0x01, 0xFE, 0x32, 0xCD, 0x0E, 0xF1]] := by decide
theorem test_playSystemSound_frame :
    writtenBy (.playSystemSound 1 150) silent = some [[0x55, 0xFF, 0x00, 0x51, 0xAE, 0x01, 0xFE, 0x52, 0xAD]] := by decide

/-- A model given another opcode table and sound bound (log 8): a GetVersions of 0x21 with the parameter 0x2A, and no sound. -/
def otherTable : Build :=
  { testBuild with soundMax := 0, wire := { Config.wireTable with getVersions := ⟨0x21, [.fixed 0x2A]⟩ } }
theorem test_wrappers_otherTable :
    writtenBy (.getVersions 150) { silent with build := otherTable } =
      some [[0x55, 0xFF, 0x00, 0x21, 0xDE, 0x2A, 0xD5, 0x4B, 0xB4]] ∧
    (after (.playSystemSound 1 150) { silent with build := otherTable }).map (fun t => t.hostRes) =
      some (some ⟨false, .outOfRangeParameter, none⟩) := by decide

/-! ## Table words, the step, and a reset -/

theorem test_tableWord_ping : decodeTableWord 8 0x10 = some (.ping 0) := by decide
theorem test_tableWord_statusRead : decodeTableWord 8 0x09 = some .statusRead := by decide
/-- The step takes the placed word and runs it. -/
theorem test_step_runs_placed_word :
    step (afterReset.withFetchWord 8 0x09) = exec .statusRead afterReset := by rfl
/-- A reset after one event of P1's exchange leaves the write as its only event. -/
theorem test_reset_during_ping :
    (match step { silent with pending := [⟨.command, [0x03, 0x10, 0, 0, 0, 0, 0x96, 0x00]⟩], resetInput := .duringCommand 1 } with
      | .next t => some (t.trace, t.linkOpen)
      | _ => none) = some ([.wrote pingFrame true], false) := by decide

/-! ## States that meet the hypotheses of the obligations

One theorem or more for every obligation that has hypotheses, each clause at a boundary of its range. -/

/-- An open link that answers the exchange as an RCX does, with this data after the reply's opcode. -/
def replying (opc : Byte) (params d : Bytes) : State := opened [true] [(opened [] []).echoAndReply opc params d]

/-- The HOST presents a request, and another after it. -/
def presenting (p : Port) (bs : Bytes) : State :=
  { replying 0x10 [] [] with pending := [⟨p, bs⟩, ⟨.command, [0x09]⟩] }

/-- A presented Ping. -/
def presentedPing : State := presenting .command [0x03, 0x10, 0, 0, 0, 0, 0x96, 0x00]

/-- The same configuration with other switches. -/
def configured (fast glitchyEn : Bool) (s : State) : State :=
  { s with cfg := { s.cfg with fast := fast, glitchyEn := glitchyEn } }

theorem witness_DecodeOfEncode : (Instr.sendBuffer true 20 [1, 2, 3]).wellFormed = true := by decide
theorem witness_EncodeOfDecodedCommand :
    decode .command [0x13, 0x65, 1, 0, 0, 0, 0x0B, 0x96, 0x00, 0x09] = .instr (.transceive true 0x65 [0x0B] 150) [0x09] := by
  decide
theorem witness_EncodeOfDecodedWrapper :
    decode .wire [0x18, 0x96, 0x00, 0xAA] = .instr (.ping 150) [0xAA] ∧
      decode .wire [0x10, 0x96, 0x00] = .instr (.ping 150) [] := by decide
theorem witness_IllegalCommandWord :
    (∀ w ∈ ([0x0A, 0x0F, 0x10, 0x11, 0x15, 0x19, 0x20, 0xFF] : List Byte),
      decode .command [w] = .illegal ∧ (presenting .command [w]).pending = [⟨.command, [w]⟩, ⟨.command, [0x09]⟩]) ∧
    (presenting .command [0x0A]).cmdState = .idle ∧ (presenting .command [0x0A]).resetInput = .notAsserted ∧
    (presenting .command [0x0A]).hangIn = none ∧ decode .command [0x09] = .instr .statusRead [] ∧
    decode .command [0x14, 1, 0, 0, 0, 0, 0] = .instr (.sendBuffer true 1 []) [] := by decide
theorem witness_StepRunsTheDecodedInstruction :
    presentedPing.cmdState = .idle ∧ presentedPing.resetInput = .notAsserted ∧ presentedPing.hangIn = none ∧
      presentedPing.pending = [⟨.command, [0x03, 0x10, 0, 0, 0, 0, 0x96, 0x00]⟩, ⟨.command, [0x09]⟩] ∧
      decode .command [0x03, 0x10, 0, 0, 0, 0, 0x96, 0x00] = .instr (.transceive false 0x10 [] 150) [] := by decide
theorem witness_StepWaits :
    afterReset.resetInput ≠ .betweenCommands ∧ afterReset.pending = [] ∧
      ({ presentedPing with cmdState := .busy } : State).resetInput ≠ .betweenCommands ∧
      ({ presentedPing with cmdState := .busy } : State).cmdState = .busy := by decide
theorem witness_StepRefusesNoInstruction :
    (presenting .command [0x08]).cmdState = .idle ∧ (presenting .command [0x08]).resetInput ≠ .betweenCommands ∧
      decode .command [0x08] = .incomplete ∧ decode .command [0x09, 0x00] = .instr .statusRead [0x00] ∧
      decode .wire [0x11] = .unknown ∧ (presenting .wire [0x11]).pending = [⟨.wire, [0x11]⟩, ⟨.command, [0x09]⟩] := by decide
/-- A state for both clauses on a reset between commands. -/
theorem witness_ResetState :
    ({ presentedPing with resetInput := .betweenCommands } : State).resetInput = .betweenCommands := rfl
/-- The Ping has four events: `n` = 0 and 3 cut it, `n` = 4 finds it over. -/
theorem witness_ResetDuringCommand :
    ∀ n ∈ [0, 3, 4],
      ({ presentedPing with resetInput := .duringCommand n } : State).resetInput = .duringCommand n ∧
        (after (.transceive false 0x10 [] 150)
          { presentedPing with resetInput := .duringCommand n, pending := [⟨.command, [0x09]⟩] }).map
            (fun t => (t.eventsSince presentedPing).length) = some 4 := by decide
/-- The Ping makes two calls that the LINK answers: `k` = 1 hangs its read, `k` = 2 comes after it. -/
theorem witness_LinkThatNeverAnswers :
    ∀ k ∈ [1, 2],
      ({ presentedPing with hangIn := some k } : State).hangIn = some k ∧
        (after (.transceive false 0x10 [] 150)
          { presentedPing with hangIn := some k, pending := [⟨.command, [0x09]⟩] }).map
            (fun t => linkCalls (t.eventsSince presentedPing)) = some 2 := by decide

theorem witness_SessionStartCompletes :
    (opened [] []).link.opens = [true] ∧ ({ afterReset with link := ⟨[false], [], [], []⟩ } : State).link.opens = [false] := by
  decide
theorem witness_UnmappedAddresses :
    ∀ a ∈ ([0x07, 0x0A, 0x0F, 0x17, 0xFF] : List Byte), a = 0x07 ∨ (0x0A ≤ a ∧ a ≤ 0x0F) ∨ 0x17 ≤ a := by decide

theorem witness_EncodeCompletes :
    framable testBuild 0x10 0 = true ∧ framable testBuild 0x10 1 = false ∧ framable testBuild 0x17 7 = true ∧
      framable { testBuild with maxParamsOver7 := some 0 } 0x45 7 = true ∧
      framable { testBuild with maxParamsOver7 := some 0 } 0x45 8 = false := by decide
theorem witness_CodecLaw :
    encodeResult 0x10 [] afterReset = .ok pingFrame ∧
      encodeResult 0x10 [] (configured true true afterReset) = .ok [0xFF, 0x10, 0x10] ∧
      flipBit pingFrame 3 0 = [0x55, 0xFF, 0x00, 0x11, 0xEF, 0x10, 0xEF] ∧
      flipBit pingFrame 6 7 = [0x55, 0xFF, 0x00, 0x10, 0xEF, 0x10, 0x6F] := ⟨rfl, rfl, by decide, by decide⟩
theorem witness_DecodeCompletes_valid :
    afterPreamble false [0x55, 0xFF, 0x00, 0xEF, 0x10, 0xEF, 0x10] = some (bodyOf false [0xEF]) ∧
      afterPreamble false [0x55, 0xFF, 0x00, 0x00, 0xFF] = some (bodyOf false []) ∧
      afterPreamble true [0xFF, 0x00] = some (bodyOf true []) := by decide
/-- A body of no bytes holds no payload. -/
theorem empty_body (fast : Bool) (p : Bytes) : ([] : Bytes) ≠ bodyOf fast p := by
  cases fast <;> cases p <;> simp [bodyOf, pairs]
theorem witness_DecodeCompletes_invalid (p : Bytes) :
    afterPreamble false [0x55, 0xFF, 0x00] ≠ some (bodyOf false p) ∧ afterPreamble true [0xFF] ≠ some (bodyOf true p) ∧
      afterPreamble false [0x55, 0xFF] ≠ some (bodyOf false p) ∧ afterPreamble true [] ≠ some (bodyOf true p) :=
  ⟨fun h => empty_body false p (Option.some.inj h), fun h => empty_body true p (Option.some.inj h),
    nofun, nofun⟩
theorem witness_ToggleCountsFrames :
    (∃ t, exec (.ping 150) silent = .next t) ∧ silent.cfg.resetOnReconnect = false ∧
      (∀ opc params, Instr.ping 150 ≠ .encode opc params) ∧ ∀ tp, Instr.ping 150 ≠ .sessionStart tp :=
  ⟨⟨_, rfl⟩, rfl, fun _ _ h => Instr.noConfusion h, fun _ h => Instr.noConfusion h⟩

theorem witness_TransceiveRoundTrip :
    framable testBuild 0x30 0 = true ∧
      (replying 0x30 [] [0x2C, 0x24]).linkGives ((replying 0x30 [] [0x2C, 0x24]).echoAndReply 0x30 [] [0x2C, 0x24]) [] [] := by
  decide
theorem witness_TransceiveRoundTrip_noise :
    let a : ReadAnswer := ⟨0xFF :: ((opened [] []).echoAndReply 0x10 [] []).bytes, false⟩
    (opened [true] [a]).cfg.fast = false ∧ (opened [true] [a]).cfg.glitchyEn = true ∧
      (opened [true] [a]).linkGives ⟨0xFF :: ((opened [true] [a]).echoAndReply 0x10 [] []).bytes, false⟩ [] [] := by decide
theorem witness_TransceiveIgnoringReply :
    framable testBuild 0x10 0 = true ∧ (opened [true] [⟨[0x01], true⟩]).linkGives ⟨[0x01], true⟩ [] [] := by decide
theorem witness_TransceiveOnClosedLink : afterReset.linkOpen = false := rfl
theorem witness_TransceiveEncodeError :
    (opened [] []).linkOpen = true ∧ framable testBuild 0x10 1 = false ∧
      framable { testBuild with maxParamsOver7 := some 0 } 0x45 8 = false := by decide
theorem witness_TransceiveWriteFails :
    (opened [false] []).linkOpen = true ∧ framable testBuild 0x10 0 = true ∧ (opened [false] []).link.writes = [false] ∧
      (opened [false] []).savedParams = some [0x70] ∧ (opened [false] []).link.opens = [true] ∧
      ({ opened [false] [] with savedParams := none } : State).savedParams = none := by decide
theorem witness_TransceiveChannelError :
    framable testBuild 0x10 0 = true ∧ (opened [true] [⟨pingFrame, true⟩]).linkGives ⟨pingFrame, true⟩ [] [] ∧
      (opened [true] [⟨pingFrame, true⟩]).savedParams = some [0x70] ∧
      (opened [true] [⟨pingFrame, true⟩]).link.opens = [true] := by decide
/-- T4, two noise bytes; and T3, one of them with the relaxed match off. -/
theorem witness_TransceiveNoEcho :
    framable testBuild 0x10 0 = true ∧
      (answering (0x00 :: 0x00 :: pingFrame)).linkGives ⟨0x00 :: 0x00 :: pingFrame, false⟩ [] [] ∧
      ¬wireFrame false (sentOpcode false 0x10) [] <+: 0x00 :: 0x00 :: pingFrame ∧
      ¬wireFrame false (sentOpcode false 0x10) [] <+: (0x00 :: 0x00 :: pingFrame).drop 1 ∧
      ¬wireFrame false (sentOpcode false 0x10) [] <+: 0x00 :: pingFrame ∧
      (configured false false (answering (0x00 :: pingFrame))).cfg.glitchyEn = false := by decide
/-- T6, T16, T1, and an empty body after the preamble; the echo exact and after one byte. -/
theorem witness_TransceiveReplyChecks :
    (∀ rem ∈ ([[], [0x55, 0xFF, 0x00], [0x55, 0xFF, 0x00, 0x00, 0xFF], [0x55, 0xFF, 0x00, 0xEF, 0x10, 0xEF, 0x10]] : List Bytes),
      (answering (pingFrame ++ rem)).linkGives ⟨pingFrame ++ rem, false⟩ [] []) ∧
    pingFrame = wireFrame false (sentOpcode false 0x10) [] ∧ framable testBuild 0x10 0 = true ∧
    afterReset.cfg.glitchyEn = true ∧ ¬pingFrame <+: 0x00 :: pingFrame ∧ (0x00 :: pingFrame).drop 1 = pingFrame ++ [] ∧
    afterPreamble false [] = none ∧ afterPreamble false [0x55, 0xFF, 0x00] = some [] ∧
    afterPreamble false [0x55, 0xFF, 0x00, 0x00, 0xFF] = some (bodyOf false []) ∧
    ([] : Bytes).head? ≠ some (~~~0x10) ∧
    afterPreamble false [0x55, 0xFF, 0x00, 0xEF, 0x10, 0xEF, 0x10] = some (bodyOf false [0xEF]) ∧
    ([0xEF] : Bytes).head? = some (~~~(sentOpcode false 0x10)) := by decide
theorem witness_TransceiveEvents :
    (∃ t, exec (.transceive false 0x10 [] 150) silent = .next t) ∧
      ∃ t, exec (.transceive false 0x10 [] 150) afterReset = .next t := ⟨⟨_, rfl⟩, ⟨_, rfl⟩⟩

/-- The least buffer and block size, and the most blocks of either numbering. -/
theorem witness_SegmentationLaw :
    1 ≤ ([0x00] : Bytes).length ∧ 1 ≤ (1 : Nat) ∧ numBlocks 1 1 = 1 ∧ numBlocks 65536 1 = 65536 ∧ numBlocks 65535 1 = 65535 ∧
      (List.replicate 65536 (0 : Byte)).length = 65536 ∧ (List.replicate 65535 (0 : Byte)).length = 65535 :=
  ⟨by decide, by decide, by decide, by decide, by decide, List.length_replicate, List.length_replicate⟩

/-- 45 bytes (vector S2). -/
def data45 : Bytes := (List.range 45).map (BitVec.ofNat 8)

/-- A LINK that acknowledges every block of a transfer in blocks of `bsize`. -/
def acknowledging (bsize : Half) (data : Bytes) (s : State) : State :=
  { s with
    link := { s.link with
      writes := List.replicate (blockCount bsize data) true
      reads := s.attemptAnswers s.toggle ((blockList s.cfg.oneToN bsize data).map fun p => (p, [s.build.stOkay])) } }

/-- Three blocks (vector S2), and none. -/
theorem witness_SendBufferCompletes :
    (acknowledging 20 data45 (opened [] [])).transferable 20 data45 ∧ blockCount 20 data45 = 3 ∧
      (acknowledging 20 data45 (opened [] [])).link.writes = List.replicate 3 true ++ [] ∧
      (acknowledging 20 data45 (opened [] [])).link.reads =
        (opened [] []).attemptAnswers false ((blockList false 20 data45).map fun p => (p, [0x00])) ++ [] ∧
      (acknowledging 20 [] (opened [] [])).transferable 20 [] ∧ blockCount 20 [] = 0 ∧
      (acknowledging 20 [] (opened [] [])).link.writes = [] := by
  decide +kernel
theorem witness_SendBufferRefused :
    afterReset.linkOpen = false ∧ (opened [] []).linkOpen = true ∧ ¬(opened [] []).transferable 0 [0x01] ∧
      ¬(opened [] []).transferable 20 (List.replicate 65 0) ∧
      ¬({ opened [] [] with build := { testBuild with maxParamsOver7 := some 0 } } : State).transferable 3 [0x01] := by
  decide +kernel
/-- One block more than either numbering can name. -/
theorem witness_SendBufferRefused_blocks :
    ¬({ opened [] [] with build := { testBuild with bufCap := 70000 } } : State).transferable 1 (List.replicate 65537 0) ∧
      ¬({ opened [] [] with
          build := { testBuild with bufCap := 70000 }, cfg := { afterReset.cfg with oneToN := true } } : State).transferable 1
        (List.replicate 65536 0) := by
  constructor <;> refine fun h => absurd h.2.2.2.2 ?_ <;> simp only [blockCount, List.length_replicate] <;> decide
theorem witness_SendBufferLoadsBuffer :
    (after (.sendBuffer false 20 data45) (acknowledging 20 data45 (opened [] []))).isSome = true ∧
      (acknowledging 20 data45 (opened [] [])).transferable 20 data45 ∧
      (after (.sendBuffer false 0 [0x01]) (opened [] [])).isSome = true ∧ ¬(opened [] []).transferable 0 [0x01] := by
  decide +kernel

/-- `MAX_RETRIES` = `r`; the first `k` blocks of a transfer of `data45` in blocks of 20 are acknowledged, and every attempt of
the next is answered with the reply data `d`. -/
def failing (r : Byte) (k : Nat) (d : Bytes) : State :=
  let s := { opened [] [] with cfg := { afterReset.cfg with maxRetries := r } }
  let blocks := blockList false 20 data45
  { s with
    link := { s.link with
      writes := List.replicate (k + (r.toNat + 1)) true
      reads := s.attemptAnswers false ((blocks.take k).map fun p => (p, [0x00])) ++
        s.attemptAnswers (decide (k % 2 = 1)) ((List.replicate (r.toNat + 1) d).map fun d => (blocks.getD k [], d)) } }

theorem witness_SendBufferEnds :
    (after (.sendBuffer false 20 data45) (acknowledging 20 data45 (opened [] []))).map (fun t => t.bt.state) = some .complete ∧
      (acknowledging 20 data45 (opened [] [])).transferable 20 data45 ∧
      (after (.sendBuffer false 20 data45) (failing 2 1 [0x03])).map (fun t => t.bt.state) = some .aborted ∧
      (failing 2 1 [0x03]).transferable 20 data45 := by decide +kernel
/-- The first block and the last, no retry and two, a bad status (vector S6) and no status byte (vector S7). -/
theorem witness_SendBufferRetriesExhausted :
    ∀ r ∈ ([0, 2] : List Byte), ∀ k ∈ [0, 2], ∀ d ∈ ([[0x03], []] : List Bytes),
      let s := failing r k d
      let blocks := blockList s.cfg.oneToN 20 data45
      let replies := List.replicate (r.toNat + 1) d
      s.transferable 20 data45 ∧ blocks = blocks.take k ++ blocks.getD k [] :: blocks.drop (k + 1) ∧
        (blocks.take k).length = k ∧ replies.length = s.cfg.maxRetries.toNat + 1 ∧
        (∀ x ∈ replies, x.head? ≠ some s.build.stOkay) ∧
        s.link.writes = List.replicate ((blocks.take k).length + replies.length) true ++ [] ∧
        s.link.reads = s.attemptAnswers s.toggle ((blocks.take k).map fun q => (q, [s.build.stOkay])) ++
          s.attemptAnswers (s.toggle ^^ decide ((blocks.take k).length % 2 = 1))
            (replies.map fun x => (blocks.getD k [], x)) ++ [] := by decide +kernel
/-- Vector S8, with one retry allowed. -/
theorem witness_SendBufferProbesAndRetries :
    let f := wireFrame false 0x45 (headerBytes 0 [1, 2, 3])
    let ack : ReadAnswer := ⟨f ++ wireFrame false (~~~0x45) [0x00], false⟩
    let s := { opened [true, true, true] [⟨[0x55], false⟩, ⟨[], false⟩, ack] with
      cfg := { afterReset.cfg with maxRetries := 1 } }
    s.transferable 4 [1, 2, 3] ∧ blockList s.cfg.oneToN 4 [1, 2, 3] = [headerBytes 0 [1, 2, 3]] ∧ 1 ≤ s.cfg.maxRetries.toNat ∧
      s.link.writes = [true, true, true] ∧ s.link.reads = [⟨[0x55], false⟩, ⟨[], false⟩, ack] ∧ s.link.elapsed = [5, 9] ∧
      sentOpcode s.toggle s.build.opcCont = 0x45 ∧ s.build.stOkay = 0x00 ∧ s.cfg.fast = false ∧
      ¬f <+: [0x55] ∧ ¬f <+: ([0x55] : Bytes).drop 1 := by decide +kernel
theorem witness_SendBufferLinkLost :
    let s : State := { opened [false] [] with link := ⟨[false], [false], [], []⟩ }
    s.transferable 4 [1, 2, 3] ∧ blockList s.cfg.oneToN 4 [1, 2, 3] = [headerBytes 0 [1, 2, 3]] ∧ s.link.writes = [false] ∧
      s.savedParams = some [0x70] ∧ s.link.opens = [false] := by decide +kernel
/-- The transceiver after an exchange. -/
def exchangeEnded (ok : Bool) (p : Option Bytes) : State := { opened [] [] with tx := { afterReset.tx with ok := ok, payload := p } }
theorem witness_AttemptOutcomes :
    (exchangeEnded false none).tx.ok = false ∧ (exchangeEnded true (some [0xBA])).tx.payload = some [0xBA] ∧
      (∀ st ∈ ([0x00, 0x03, 0x04, 0x06, 0x07] : List Byte),
        (exchangeEnded true (some [0xBA, st])).tx.payload = some (0xBA :: st :: []) ∧
          (exchangeEnded true (some [0xBA, st])).tx.ok = true) ∧
      (0x07 : Byte) ∉ [testBuild.stOkay, testBuild.stBlockCksum, testBuild.stFwCksum, testBuild.stNotActive] ∧
      (0x06 : Byte) ∉ [testBuild.stOkay, testBuild.stBlockCksum, testBuild.stFwCksum] := by decide
theorem witness_ProgressInOrder :
    (after (.sendBuffer false 20 data45) (acknowledging 20 data45 (opened [] []))).map (fun t => t.res.ok) = some true ∧
      (acknowledging 20 data45 (opened [] [])).transferable 20 data45 ∧
      (after (.sendBuffer false 20 data45) (failing 0 0 [0x03])).map (fun t => t.res.ok) = some false ∧
      (failing 0 0 [0x03]).transferable 20 data45 := by decide +kernel
theorem witness_TransferFramesBounded :
    (after (.sendBuffer false 20 data45) (failing 2 1 [0x03])).isSome = true ∧ (failing 2 1 [0x03]).transferable 20 data45 := by
  decide +kernel

theorem witness_PlainWrappersComplete :
    (∀ i ∈ ([.ping 150, .getVersions 150, .getBatteryPower 150, .stopAllTasks 150, .deleteAllTasks 150, .deleteAllSubs 150] :
        List Instr), ∃ f, wireForm testBuild i = some f ∧ f.sendable testBuild ∧
      (replying f.opcode f.params [0x2C]).linkGives ((replying f.opcode f.params [0x2C]).echoAndReply f.opcode f.params [0x2C])
        [] []) ∧
    ∃ f, wireForm otherTable (.getVersions 150) = some f ∧ framable otherTable f.opcode f.params.length = true := by
  constructor
  · intro i hi
    simp only [List.mem_cons, List.not_mem_nil, or_false] at hi
    rcases hi with rfl | rfl | rfl | rfl | rfl | rfl <;> exact ⟨_, rfl, by decide, by decide⟩
  · exact ⟨_, rfl, by decide⟩
theorem witness_IgnoringWrappersComplete :
    ∀ i ∈ ([.goIntoBootMode 150, .unlockFirmware 150, .remote 0x0001 150] : List Instr),
      ∃ f, wireForm testBuild i = some f ∧ f.sendable testBuild ∧ silent.linkGives ⟨[], false⟩ [] [] := by
  intro i hi
  simp only [List.mem_cons, List.not_mem_nil, or_false] at hi
  rcases hi with rfl | rfl | rfl <;> exact ⟨_, rfl, by decide, by decide⟩
/-- The largest size, an empty block and one that needs EncodeFrame's own check, and an address other than 0x8000. -/
theorem witness_DownloadWrappersComplete :
    ∀ i ∈ ([.beginTaskDownload 1 65535 150, .continueDownload 1 [] 150, .continueDownload 1 [1, 2, 3] 150,
        .beginFirmwareDownload 0x1234 0x4C00 150] : List Instr),
      ∃ f, wireForm testBuild i = some f ∧ f.inRange = true ∧ f.sendable testBuild ∧
        (replying f.opcode f.params [0x00]).linkGives
          ((replying f.opcode f.params [0x00]).echoAndReply f.opcode f.params [0x00]) [] [] := by
  intro i hi
  simp only [List.mem_cons, List.not_mem_nil, or_false] at hi
  rcases hi with rfl | rfl | rfl | rfl <;> exact ⟨_, rfl, by decide, by decide, by decide⟩
theorem witness_DownloadWrappersComplete_longest :
    (List.replicate 65535 (0 : Byte)).length ≤ 65535 ∧ withinMaxParams testBuild (65535 + 5) = true :=
  ⟨Nat.le_of_eq List.length_replicate, by decide⟩
/-- Both ends of each range. -/
theorem witness_CheckedWrappersComplete :
    ∀ i ∈ ([.selectProgram 0 150, .selectProgram 5 150, .playTone 0 0 150, .playTone 65535 255 150, .playSystemSound 0 150,
        .playSystemSound 5 150] : List Instr),
      ∃ f, wireForm testBuild i = some f ∧ f.inRange = true ∧ f.sendable testBuild ∧
        (replying f.opcode f.params []).linkGives ((replying f.opcode f.params []).echoAndReply f.opcode f.params []) [] [] := by
  intro i hi
  simp only [List.mem_cons, List.not_mem_nil, or_false] at hi
  rcases hi with rfl | rfl | rfl | rfl | rfl | rfl <;> exact ⟨_, rfl, by decide, by decide, by decide⟩
theorem witness_CheckedWrappersComplete_slotMin :
    (wireForm { testBuild with slotMinIsOne := true } (.selectProgram 1 150)).map (fun f => f.inRange) = some true := by decide
theorem witness_WrappersOutOfRange :
    ({ testBuild with slotMinIsOne := true } : Build).slotMinIsOne = true ∧ (0 : Word).toNat = 0 ∧ 5 < (6 : Word).toNat ∧
      testBuild.soundMax.toNat < (6 : Word).toNat ∧ otherTable.soundMax.toNat < (1 : Word).toNat ∧
      65535 < (65536 : Word).toNat ∧ 255 < (256 : Word).toNat ∧ 65535 < (List.replicate 65536 (0 : Byte)).length :=
  ⟨rfl, rfl, by decide, by decide, by decide, by decide, by decide, Nat.lt_of_lt_of_eq (by decide) List.length_replicate.symm⟩
/-- Each wrapper with ranges at its bounds, and the state in which the default table's bytes are stated. -/
theorem witness_WrappersAreTransceives :
    (∀ i ∈ ([.ping 150, .selectProgram 0 150, .selectProgram 5 150, .beginTaskDownload 255 65535 150,
        .continueDownload 65535 [] 150, .playTone 65535 255 150, .playSystemSound 5 150] : List Instr),
      ∃ f u, wireForm testBuild i = some f ∧ f.inRange = true ∧
        exec (.transceive f.ign f.opcode f.params f.timeout) silent = .next u) ∧
    silent.build.wire = State.reset.build.wire ∧ silent.build.opcCont = State.reset.build.opcCont ∧
    silent.build.opcRemote = State.reset.build.opcRemote := by
  refine ⟨fun i hi => ?_, rfl, rfl, rfl⟩
  simp only [List.mem_cons, List.not_mem_nil, or_false] at hi
  rcases hi with rfl | rfl | rfl | rfl | rfl | rfl | rfl <;> exact ⟨_, _, rfl, by decide, rfl⟩
/-- T9's reply, to the other toggle value. -/
theorem witness_ReplyAnswersTheToggle :
    framable testBuild 0x10 0 = true ∧
      (answering (pingFrame ++ [0x55, 0xFF, 0x00, 0xE7, 0x18, 0xE7, 0x18])).linkGives
        ⟨wireFrame false (sentOpcode false 0x10) [] ++ wireFrame false (~~~(sentOpcode true 0x10)) [], false⟩ [] [] := by decide

theorem witness_OneResponsePerCommand :
    (∃ t, exec (.ping 150) silent = .next t) ∧ ∃ t, exec (.selectProgram 6 150) silent = .next t := ⟨⟨_, rfl⟩, ⟨_, rfl⟩⟩
theorem witness_WhoWritesWhat :
    (∃ t, exec (.cfgWrite 0x00 1) afterReset = .next t) ∧ (∃ t, exec (.ping 150) silent = .next t) ∧
      ∃ t, exec .sessionEnd (opened [] []) = .next t := ⟨⟨_, rfl⟩, ⟨_, rfl⟩, ⟨_, rfl⟩⟩
theorem witness_InvariantKeptByStep : presentedPing.Inv ∧ ∃ t, step presentedPing = .next t :=
  ⟨by constructor <;> decide, _, rfl⟩
theorem witness_FirmwareDownloadOnClosedLink : afterReset.linkOpen = false := rfl

/-- A download about to transfer. -/
def transferring (s : State) : HostRun := { HostRun.start s with stage := .transferring }
/-- The registers that the HOST reads after a transfer step: none, those of the last block, none. -/
def failedBlockOf (r : HostOutcome) : Option (Option FailedBlock) :=
  match r with
  | .next h => some (h.error.bind fun e => e.failed)
  | _ => none
/-- A transfer that completes, one that aborts on block 3 of 3 (wire index 0), one that the start checks refuse. -/
theorem witness_TransferStepReports :
    (transferring afterReset).error = none ∧
      (after (.sendBuffer false 20 data45) (acknowledging 20 data45 (opened [] []))).map (fun t => t.res.ok) = some true ∧
      (after (.sendBuffer false 20 data45) (failing 2 2 [])).map (fun t => (t.res.ok, t.res.err, t.bt.failOrd)) =
        some (false, .blockTransferFailed, 3) ∧
      (after (.sendBuffer false 0 data45) (opened [] [])).map (fun t => (t.res.ok, t.res.err)) =
        some (false, .outOfRangeParameter) ∧
      failedBlockOf (transferStep false 20 data45 (transferring (failing 2 2 []))) = some (some ⟨0, 3⟩) ∧
      failedBlockOf (transferStep false 0 data45 (transferring (opened [] []))) = some none := by decide +kernel
/-- R346: status 01 of BeginTaskDownload is NotEnoughMemory; a chunk of another type is refused (R351; its report is log 21). -/
theorem test_programDownload_refusals :
    (statusVerdict [.okay, .notEnoughMemory, .illegalNumber] { afterReset with hostRes := some ⟨true, .noErr, some [0xDA, 0x01]⟩ }) =
      some { err := .unexpectedStatus, detail := some 0x01, status := some .notEnoughMemory } ∧
    downloadChunks 150 0 [⟨1, 0, []⟩] (transferring afterReset) =
      .next ⟨afterReset, .aborted, some { err := .unsupportedChunkType }, [⟨.transferring, .beginTaskDownload, false⟩]⟩ :=
  ⟨by decide, rfl⟩

end Sys2Proof.Tests
end

