-- ==== Sys2Proof/Proofs/Registers.lean ====
section
/-! The register map of 10_state.md: what a read of an address answers, which addresses a write refuses, and the words of
`STATUS` and `BT_POS` as numbers. -/

namespace Sys2Proof.Machine

/-! ## CFG_READ, CFG_WRITE and STATUS_READ as whole next states -/

theorem exec_cfgRead_some {s : State} {addr : Byte} {v : Word} (h : readRegister addr s = some v) :
    exec (.cfgRead addr) s = .next (s.ended [] { s.res.succeeded with value := v }) := by
  have accepted : readRegister addr (accept s) = some v := h
  simp only [exec, execCfgRead, command, cfgReadBody, accepted, Host.Outcome.next.injEq]
  exact respond_eq_ended (s := s) (events := []) (by simp)

theorem exec_cfgRead_none {s : State} {addr : Byte} (h : readRegister addr s = none) :
    exec (.cfgRead addr) s = .next (s.ended [] (s.res.failed .illegalCommand)) := by
  have accepted : readRegister addr (accept s) = none := h
  simp only [exec, execCfgRead, command, cfgReadBody, accepted, Host.Outcome.next.injEq]
  exact respond_eq_ended (s := s) (events := []) (by simp)

theorem exec_cfgWrite_none {s : State} {addr : Byte} {v : Word} (h : writeRegister addr v s.cfg = none) :
    exec (.cfgWrite addr v) s = .next (s.ended [] (s.res.failed .illegalCommand)) := by
  simp only [exec, execCfgWrite, command, cfgWriteBody, accept_cfg, h, Host.Outcome.next.injEq]
  exact respond_eq_ended (s := s) (events := []) (by simp)

theorem exec_statusRead (s : State) :
    exec .statusRead s = .next (s.ended [] { s.res.succeeded with value := statusWord s }) := by
  simp only [exec, execStatusRead, command, statusReadBody, Host.Outcome.next.injEq]
  exact respond_eq_ended (s := s) (events := []) (by simp)

/-- A register that holds the word of a number reads as that number. -/
theorem readsAs_of_readRegister {s : State} {addr : Byte} {v : Nat} (h : readRegister addr s = some (BitVec.ofNat 32 v)) :
    s.readsAs addr v := exec_cfgRead_some h

/-! ## Which addresses hold no register (10_state.md R40, R56) -/

/-- The RW registers are those at 0x00 to 0x06. -/
theorem writeRegister_eq_none {addr : Byte} (h : 0x07 ≤ addr) (v : Word) (c : Cfg) : writeRegister addr v c = none := by
  have above : 7 ≤ addr.toNat := by simpa [BitVec.le_def] using h
  unfold writeRegister
  split
  case h_8 => rfl
  all_goals omega

theorem cannotWrite_of_le {addr : Byte} (h : 0x07 ≤ addr) (s : State) : s.cannotWrite addr :=
  fun v => exec_cfgWrite_none (writeRegister_eq_none h v s.cfg)

/-- The addresses that 10_state.md R40 leaves unmapped. -/
theorem readRegister_eq_none {addr : Byte} (h : addr = 0x07 ∨ (0x0A ≤ addr ∧ addr ≤ 0x0F) ∨ 0x17 ≤ addr) (s : State) :
    readRegister addr s = none := by
  have unmapped : addr.toNat = 7 ∨ (10 ≤ addr.toNat ∧ addr.toNat ≤ 15) ∨ 23 ≤ addr.toNat := by
    bv_omega
  unfold readRegister
  split
  case h_17 => rfl
  all_goals omega

/-! ## Words as numbers -/

/-- A concatenation of fields, as a number. -/
theorem toNat_append_eq_add {m n : Nat} (x : BitVec m) (y : BitVec n) :
    (x ++ y).toNat = 2 ^ n * x.toNat + y.toNat := by
  rw [BitVec.toNat_append, ← Nat.shiftLeft_add_eq_or_of_lt y.isLt, Nat.shiftLeft_eq, Nat.mul_comm]

theorem eq_ofNat_of_toNat {n v : Nat} {x : BitVec n} (h : x.toNat = v) : x = BitVec.ofNat n v := by
  rw [← h, BitVec.ofNat_toNat, BitVec.setWidth_eq]

@[simp] theorem bit_toNat (b : Bool) : (bit b).toNat = b.toNat := by cases b <;> rfl

@[simp] theorem errBits_toNat (e : ErrCode) : (errBits e).toNat = e.code := by cases e <;> rfl

@[simp] theorem txStateBits_toNat (st : TxState) : (txStateBits st).toNat = st.code := by cases st <;> rfl

@[simp] theorem btStateBits_toNat (st : BtState) : (btStateBits st).toNat = st.code := by cases st <;> rfl

/-- `BT_POS` (10_state.md R53). -/
theorem btPosWord_eq (b : Bt) :
    btPosWord b = BitVec.ofNat 32 (b.index.toNat + 2 ^ 16 * b.retry.toNat + 2 ^ 24 * b.lastStatus.toNat) := by
  apply eq_ofNat_of_toNat
  simp only [btPosWord, toNat_append_eq_add]
  omega

/-- `STATUS` (10_state.md R50). -/
theorem statusWord_eq (s : State) :
    statusWord s = BitVec.ofNat 32 (s.tx.state.code + 2 ^ 3 * s.bt.state.code + 2 ^ 6 * s.toggle.toNat +
      2 ^ 7 * s.linkOpen.toNat + 2 ^ 8 * s.res.ok.toNat + 2 ^ 9 * s.res.valid.toNat + 2 ^ 10 * s.tx.ok.toNat +
      2 ^ 12 * s.res.err.code + 2 ^ 16 * s.tx.err.code) := by
  apply eq_ofNat_of_toNat
  simp only [statusWord, toNat_append_eq_add, bit_toNat, errBits_toNat, txStateBits_toNat, btStateBits_toNat,
    BitVec.toNat_ofNat]
  omega

/-! ## The obligations -/

/-- Settles O17: each register's word is its fields as a number, and every address from 0x07 on refuses a write. -/
theorem cfgReadsBlockEngine : Obligations.CfgReadsBlockEngine := by
  intro s
  refine ⟨?ord, ?nblocks, ?pos, ?failIndex, ?failOrd, ?elapsed, ?readOnly⟩
  case ord => exact readsAs_of_readRegister (congrArg some (BitVec.ofNat_toNat ..).symm)
  case nblocks => exact readsAs_of_readRegister (congrArg some (BitVec.ofNat_toNat ..).symm)
  case pos => exact readsAs_of_readRegister (congrArg some (btPosWord_eq s.bt))
  case failIndex => exact readsAs_of_readRegister (congrArg some (BitVec.ofNat_toNat ..).symm)
  case failOrd => exact readsAs_of_readRegister (congrArg some (BitVec.ofNat_toNat ..).symm)
  case elapsed => exact readsAs_of_readRegister (congrArg some (eq_ofNat_of_toNat rfl))
  case readOnly => refine ⟨?_, ?_, ?_, ?_, ?_, ?_⟩ <;> exact cannotWrite_of_le (by decide) s

/-- Settles O18: both commands answer `statusWord`, whose fields `statusWord_eq` places. -/
theorem statusReads : Obligations.StatusReads := by
  intro s
  refine ⟨readsAs_of_readRegister (congrArg some (statusWord_eq s)), cannotWrite_of_le (by decide) s, by decide, ?_⟩
  rw [exec_statusRead, statusWord_eq]

/-- Settles O19: an unmapped address holds no register to read and none to write. -/
theorem unmappedAddresses : Obligations.UnmappedAddresses := by
  intro s addr unmapped
  have notRW : 0x07 ≤ addr := by bv_omega
  exact ⟨exec_cfgRead_none (readRegister_eq_none unmapped s), cannotWrite_of_le notRW s⟩

end Sys2Proof.Machine
end

