-- ==== Sys2Proof/Proofs/Frame.lean ====
section
/-! What each instruction writes: the form every instruction has, and the frame of the whole instruction set. -/

namespace Sys2Proof.Machine

/-! ## The form of a command that may stop, and of a wrapper -/

theorem runCommand_eq_next_iff {body : State → Result} {s t : State} :
    runCommand body s = .next t ↔ ∃ u, body (accept s) = .next u ∧ t = respond u := by
  unfold runCommand
  cases body (accept s) <;> simp [eq_comm]

/-- Every instruction of the wire encoding is the wrapper template with its range check (44_wire_commands.md R311). -/
theorem exec_wire {i : Instr} (wire : i.port = .wire) (s : State) :
    ∃ inRange ign opc params tmo, exec i s = checkedWrapper inRange ign opc params tmo s := by
  cases i
  case selectProgram | beginTaskDownload | continueDownload | playTone | playSystemSound => exact ⟨_, _, _, _, _, rfl⟩
  case ping | getVersions | getBatteryPower | stopAllTasks | deleteAllTasks | deleteAllSubs | goIntoBootMode
      | beginFirmwareDownload | unlockFirmware | remote =>
    exact ⟨true, _, _, _, _, rfl⟩
  all_goals cases wire

/-- A wrapper is one TRANSCEIVE and its result in the HOST, or no command at all (44_wire_commands.md R311). -/
theorem exec_wire_cases {i : Instr} {s t : State} (wire : i.port = .wire) (h : exec i s = .next t) :
    (∃ opc params tmo ign, t = takeHostResult (command (transceiveBody opc params tmo ign) s)) ∨ t = wrapperOutOfRange s := by
  obtain ⟨inRange, ign, opc, params, tmo, e⟩ := exec_wire wire s
  rw [e] at h
  cases inRange
  case false => cases h; exact .inr rfl
  case true => cases h; exact .inl ⟨opc, params, tmo, ign, rfl⟩

/-! ## The frame of an instruction -/

/-- The instructions that run no exchange and take no answer of the LINK. -/
def isQuiet : Instr → Bool
  | .nop | .encode _ _ | .decode _ _ | .sessionEnd | .cfgWrite _ _ | .cfgRead _ | .statusRead => true
  | .transceive _ _ _ _ | .sendBuffer _ _ _ | .sessionStart _ | .ping _ | .getVersions _ | .getBatteryPower _
  | .selectProgram _ _ | .stopAllTasks _ | .deleteAllTasks _ | .deleteAllSubs _ | .beginTaskDownload _ _ _
  | .continueDownload _ _ _ | .goIntoBootMode _ | .beginFirmwareDownload _ _ _ | .unlockFirmware _ | .remote _ _
  | .playTone _ _ _ | .playSystemSound _ _ => false

theorem isQuiet_eq_false_of_wire {i : Instr} (wire : i.port = .wire) : isQuiet i = false := by
  cases i <;> simp [Instr.port, isQuiet] at wire ⊢

/-- What the instruction `i`, or its body, may have written between `s` and `t` (10_state.md R34 to R38). -/
structure ExecFrame (i : Instr) (s t : State) : Prop where
  hostRes : i.port = .command → t.hostRes = s.hostRes
  cfg : (∀ a v, i ≠ .cfgWrite a v) → t.cfg = s.cfg
  valid : (∀ q raw, i ≠ .decode q raw) → t.res.valid = s.res.valid
  value : (∀ a, i ≠ .cfgRead a) → i ≠ .statusRead → t.res.value = s.res.value
  savedParams : (∀ tp, i ≠ .sessionStart tp) → i ≠ .sessionEnd → t.savedParams = s.savedParams
  bt : (∀ e b d, i ≠ .sendBuffer e b d) → t.bt = s.bt
  mem : (∀ e b d, i ≠ .sendBuffer e b d) → t.mem = s.mem
  tx : isQuiet i = true → t.tx = s.tx
  linkOpen : isQuiet i = true → i ≠ .sessionEnd → t.linkOpen = s.linkOpen
  link : isQuiet i = true → t.link = s.link
  toggle : isQuiet i = true → (∀ o p, i ≠ .encode o p) → t.toggle = s.toggle

/-- Accepting a command and delivering its response write none of these fields. -/
theorem ExecFrame.of_body {i : Instr} {s u : State} (f : ExecFrame i (accept s) u) : ExecFrame i s (respond u) :=
  ⟨f.hostRes, f.cfg, f.valid, f.value, f.savedParams, f.bt, f.mem, f.tx, f.linkOpen, f.link, f.toggle⟩

theorem nop_frame (s : State) : ExecFrame Instr.nop s (finishOk s) := by constructor <;> intros <;> rfl

theorem encodeBody_frame (opc : Byte) (params : Bytes) (s : State) :
    ExecFrame (Instr.encode opc params) s (encodeBody opc params s) := by
  unfold encodeBody
  split <;> constructor <;> simp

theorem decodeBody_frame (quiet : Bool) (raw : Bytes) (s : State) :
    ExecFrame (Instr.decode quiet raw) s (decodeBody quiet raw s) := by
  unfold decodeBody
  dsimp only
  split <;> constructor <;> simp

theorem transceiveBody_frame (ign : Bool) (opc : Byte) (params : Bytes) (tmo : Half) (s : State) :
    ExecFrame (Instr.transceive ign opc params tmo) s (transceiveBody opc params tmo ign s) := by
  unfold transceiveBody
  constructor <;> simp [isQuiet]

theorem sessionStartBody_frame (tp : Bytes) (s : State) : ExecFrame (Instr.sessionStart tp) s (sessionStartBody tp s) := by
  unfold sessionStartBody finishOpen closeIfOpen
  split <;> constructor <;> simp [isQuiet]

theorem sessionEndBody_frame (s : State) : ExecFrame Instr.sessionEnd s (sessionEndBody s) := by
  unfold sessionEndBody closeIfOpen
  split <;> constructor <;> simp

theorem cfgWriteBody_frame (addr : Byte) (v : Word) (s : State) : ExecFrame (Instr.cfgWrite addr v) s (cfgWriteBody addr v s) := by
  unfold cfgWriteBody
  split <;> constructor <;> simp

theorem cfgReadBody_frame (addr : Byte) (s : State) : ExecFrame (Instr.cfgRead addr) s (cfgReadBody addr s) := by
  unfold cfgReadBody
  split <;> constructor <;> simp

theorem statusReadBody_frame (s : State) : ExecFrame Instr.statusRead s (statusReadBody s) := by
  unfold statusReadBody
  constructor <;> simp

/-- What SEND_BUFFER's body does: it refuses and writes the result only, or it sends the blocks of a loaded buffer
(42_block_transfer.md R241). -/
theorem sendBufferBody_cases {ext : Bool} {bsize : Half} {data : Bytes} {s t : State}
    (h : sendBufferBody ext bsize data s = .next t) :
    (∃ e, (e = .channelError ∨ e = .outOfRangeParameter) ∧ t = refuseTransfer e s) ∨
    s.transferable bsize data ∧
      sendBlocks (transferTimeout ext s.cfg) (numBlocks data.length bsize.toNat) 1 (transferStart ext bsize data s) =
        .next t := by
  cases l : s.linkOpen with
  | false =>
    rw [sendBufferBody_closed l] at h
    cases h
    exact .inl ⟨_, .inl rfl, rfl⟩
  | true =>
    cases c : transferOutOfRange bsize data.length s with
    | true =>
      rw [sendBufferBody_refused l c] at h
      cases h
      exact .inl ⟨_, .inr rfl, rfl⟩
    | false =>
      rw [sendBufferBody_started l c] at h
      exact .inr ⟨(transferOutOfRange_iff bsize data l).1 c, h⟩

theorem sendBufferBody_frame {ext : Bool} {bsize : Half} {data : Bytes} {s t : State}
    (h : sendBufferBody ext bsize data s = .next t) : ExecFrame (Instr.sendBuffer ext bsize data) s t := by
  rcases sendBufferBody_cases h with ⟨e, -, rfl⟩ | ⟨-, sent⟩
  · unfold refuseTransfer
    constructor <;> simp
  · have k := sendBlocks_keeps sent
    constructor
    case hostRes => exact fun _ => k.hostRes
    case cfg => exact fun _ => k.cfg
    case valid => exact fun _ => k.valid
    case value => exact fun _ _ => k.value
    case savedParams => exact fun _ _ => k.savedParams
    all_goals simp [isQuiet]

/-- A wrapper writes what its TRANSCEIVE writes, and the HOST's result. -/
theorem wire_frame {i : Instr} {s t : State} (wire : i.port = .wire) (h : exec i s = .next t) : ExecFrame i s t := by
  have loud := isQuiet_eq_false_of_wire wire
  rcases exec_wire_cases wire h with ⟨opc, params, tmo, ign, rfl⟩ | rfl
  · constructor <;> simp [wire, loud, takeHostResult, command, transceiveBody]
  · constructor <;> simp [wire, loud, wrapperOutOfRange]

/-- The frame of every instruction. -/
theorem exec_frame {i : Instr} {s t : State} (h : exec i s = .next t) : ExecFrame i s t := by
  cases i
  case nop => cases h; exact (nop_frame _).of_body
  case encode opc params => cases h; exact (encodeBody_frame opc params _).of_body
  case decode quiet raw => cases h; exact (decodeBody_frame quiet raw _).of_body
  case transceive ign opc params tmo => cases h; exact (transceiveBody_frame ign opc params tmo _).of_body
  case sendBuffer ext bsize data =>
    obtain ⟨u, sent, rfl⟩ := runCommand_eq_next_iff.1 h
    exact (sendBufferBody_frame sent).of_body
  case sessionStart tp => cases h; exact (sessionStartBody_frame tp _).of_body
  case sessionEnd => cases h; exact (sessionEndBody_frame _).of_body
  case cfgWrite addr v => cases h; exact (cfgWriteBody_frame addr v _).of_body
  case cfgRead addr => cases h; exact (cfgReadBody_frame addr _).of_body
  case statusRead => cases h; exact (statusReadBody_frame _).of_body
  all_goals exact wire_frame rfl h

/-- Settles O54, from what no instruction writes (`exec_keeps`) and the frame of each one (`exec_frame`). -/
theorem whoWritesWhat : Obligations.WhoWritesWhat := by
  intro s t i h
  have k := exec_keeps h
  have f := exec_frame h
  refine ⟨k.build, k.pending, k.resetInput, k.hangIn, f.hostRes, f.cfg, f.valid, f.value, f.savedParams, ?buffer, ?quiet⟩
  case buffer => exact fun other => ⟨f.bt other, fun a => by rw [f.mem other]⟩
  case quiet =>
    intro listed
    have quiet : isQuiet i = true := by
      rcases listed with rfl | ⟨o, p, rfl⟩ | ⟨q, raw, rfl⟩ | rfl | ⟨a, v, rfl⟩ | ⟨a, rfl⟩ | rfl <;> rfl
    exact ⟨f.tx quiet, f.linkOpen quiet, f.link quiet, f.toggle quiet⟩

end Sys2Proof.Machine
end

