-- ==== Sys2Proof/Proofs/Invariant.lean ====
section
/-! The invariant of Safety.lean, register group by register group: `Rests` is the invariant but for CMD_STATE, so that it also
speaks of the states inside a command; the body of every command keeps it, and so does every step. -/

namespace Sys2Proof.Machine

/-! ## The invariant, by register groups -/

/-- `BT_BUF` is in its canonical form, holds exactly `BT_LEN` bytes and fits its capacity (20_memory.md R91, R92). -/
structure BufferFits (mem : Memory) (len cap : Nat) : Prop where
  wf : mem.wf = true
  offsets : mem.map Prod.fst = List.range len
  fits : len ≤ cap

/-- The transceiver is at rest, and its flag, code and payload agree with how its last exchange ended (41_transceiver.md R200,
R201, R207). -/
structure TxRests (x : Tx) : Prop where
  state : x.state = .idle ∨ x.state = .success ∨ x.state = .failed
  success : x.state = .success → x.ok = true
  failed : x.state = .failed → x.ok = false ∧ x.err ≠ .noErr
  okNoErr : x.ok = true → x.err = .noErr
  noPayload : x.ok = false → x.payload = none
  code : x.err.ofExchange = true

/-- The block engine is at rest (42_block_transfer.md R240). -/
def BtRests (st : BtState) : Prop := st = .idle ∨ st = .complete ∨ st = .aborted

/-- RES_ERR agrees with RES_OK and is a code of the CORE (10_state.md R38; 60_exceptions.md R370). -/
structure ResAgrees (r : Res) : Prop where
  okNoErr : r.ok = true → r.err = .noErr
  code : r.err.hostOnly = false

/-- The invariant but for CMD_STATE, which is BUSY inside a command. -/
structure Rests (s : State) : Prop where
  buffer : BufferFits s.mem s.bt.len s.build.bufCap
  session : s.linkOpen = true → s.savedParams.isSome = true
  tx : TxRests s.tx
  bt : BtRests s.bt.state
  res : ResAgrees s.res

theorem inv_iff_idle_and_rests (s : State) : s.Inv ↔ s.cmdState = .idle ∧ Rests s := by
  constructor
  · intro inv
    exact ⟨inv.ready, ⟨inv.memWf, inv.buffer, inv.capacity⟩, inv.session,
      ⟨inv.txRests, inv.txSuccess, inv.txFailed, inv.txOk, inv.txPayload, inv.txErr⟩, inv.btRests, inv.resOk, inv.resErr⟩
  · rintro ⟨idle, buffer, session, tx, bt, res⟩
    exact ⟨idle, buffer.wf, buffer.offsets, buffer.fits, session, tx.state, bt, tx.success, tx.failed, tx.okNoErr,
      tx.noPayload, tx.code, res.okNoErr, res.code⟩

theorem Rests.accept {s : State} (h : Rests s) : Rests (accept s) := ⟨h.buffer, h.session, h.tx, h.bt, h.res⟩

theorem Rests.respond {s : State} (h : Rests s) : (respond s).Inv :=
  (inv_iff_idle_and_rests _).2 ⟨rfl, h.buffer, h.session, h.tx, h.bt, h.res⟩

/-- What writes the result only keeps the rest. -/
theorem Rests.of_result_written {s t : State} (h : Rests s) (mem : t.mem = s.mem) (bt : t.bt = s.bt) (build : t.build = s.build)
    (linkOpen : t.linkOpen = s.linkOpen) (savedParams : t.savedParams = s.savedParams) (tx : t.tx = s.tx)
    (res : ResAgrees t.res) : Rests t :=
  ⟨by rw [mem, bt, build]; exact h.buffer, by rw [linkOpen, savedParams]; exact h.session, tx ▸ h.tx, bt ▸ h.bt, res⟩

/-! ## The two exits of a command -/

theorem ResAgrees.of_success {r : Res} (err : r.err = .noErr) : ResAgrees r := ⟨fun _ => err, err ▸ rfl⟩

theorem ResAgrees.of_error {r : Res} (failed : r.ok = false) (code : r.err.hostOnly = false) : ResAgrees r :=
  ⟨fun ok => by simp [failed] at ok, code⟩

theorem hostOnly_eq_false_of_ofExchange {e : ErrCode} (h : e.ofExchange = true) : e.hostOnly = false := by
  cases e <;> simp [ErrCode.ofExchange, ErrCode.hostOnly] at h ⊢

/-! ## The bodies of the control commands and of the codec's -/

theorem finishOk_rests {s : State} (h : Rests s) : Rests (finishOk s) :=
  h.of_result_written rfl rfl rfl rfl rfl rfl (.of_success rfl)

theorem raiseError_rests {s : State} (h : Rests s) {e : ErrCode} (code : e.hostOnly = false) : Rests (raiseError e s) :=
  h.of_result_written rfl rfl rfl rfl rfl rfl (.of_error rfl code)

theorem setPayload_rests {s : State} (h : Rests s) (p : Option Bytes) : Rests (setPayload p s) :=
  h.of_result_written rfl rfl rfl rfl rfl rfl ⟨h.res.okNoErr, h.res.code⟩

theorem setValue_rests {s : State} (h : Rests s) (v : Word) : Rests (setValue v s) :=
  h.of_result_written rfl rfl rfl rfl rfl rfl ⟨h.res.okNoErr, h.res.code⟩

theorem setValid_rests {s : State} (h : Rests s) (v : Bool) : Rests (setValid v s) :=
  h.of_result_written rfl rfl rfl rfl rfl rfl ⟨h.res.okNoErr, h.res.code⟩

theorem encodeToggle_rests {s : State} (h : Rests s) (opc : Byte) (params : Bytes) : Rests (encodeToggle opc params s) :=
  h.of_result_written (by simp) (by simp) (by simp) (by simp) (by simp) (by simp) (by simpa using h.res)

theorem maybeDiag_rests {s : State} (h : Rests s) (quiet : Bool) (p : Bytes) : Rests (maybeDiag quiet p s) :=
  h.of_result_written rfl rfl rfl rfl rfl rfl h.res

theorem encodeResult_error {opc : Byte} {params : Bytes} {s : State} {e : ErrCode}
    (h : encodeResult opc params s = .error e) : e = .parameterCountMismatch ∨ e = .encodingError := by
  unfold encodeResult at h
  split at h
  · next c => cases h; exact encodeCheck_error c
  · cases h

theorem encodeBody_rests {s : State} (h : Rests s) (opc : Byte) (params : Bytes) : Rests (encodeBody opc params s) := by
  have toggled := encodeToggle_rests h opc params
  unfold encodeBody
  split
  · exact setPayload_rests (finishOk_rests toggled) _
  · next refused =>
    rcases encodeResult_error refused with rfl | rfl <;> exact setPayload_rests (raiseError_rests toggled rfl) _

theorem decodeBody_rests {s : State} (h : Rests s) (quiet : Bool) (raw : Bytes) : Rests (decodeBody quiet raw s) := by
  unfold decodeBody
  dsimp only
  split
  · exact finishOk_rests (setPayload_rests (setValid_rests h _) _)
  · exact maybeDiag_rests (raiseError_rests (setPayload_rests (setValid_rests h _) _) rfl) _ _

theorem cfgWriteBody_rests {s : State} (h : Rests s) (addr : Byte) (v : Word) : Rests (cfgWriteBody addr v s) := by
  unfold cfgWriteBody
  split
  · exact h.of_result_written rfl rfl rfl rfl rfl rfl (.of_success rfl)
  · exact raiseError_rests h rfl

theorem cfgReadBody_rests {s : State} (h : Rests s) (addr : Byte) : Rests (cfgReadBody addr s) := by
  unfold cfgReadBody
  split
  · exact finishOk_rests (setValue_rests h _)
  · exact raiseError_rests h rfl

theorem finishOpen_resAgrees (s : State) : ResAgrees (finishOpen s).res := by
  unfold finishOpen
  cases l : s.linkOpen
  · exact .of_error rfl rfl
  · exact .of_success rfl

/-- SESSION_START saves its parameters before it opens, and leaves the transceiver IDLE (43_control.md R282). -/
theorem sessionStartBody_rests {s : State} (h : Rests s) (tp : Bytes) : Rests (sessionStartBody tp s) where
  buffer := by
    unfold sessionStartBody finishOpen closeIfOpen
    split <;> simpa using h.buffer
  session _ := by
    unfold sessionStartBody finishOpen
    simp
  tx := by
    have idle : (sessionStartBody tp s).tx = { s.tx with state := .idle } := by
      unfold sessionStartBody finishOpen closeIfOpen
      split <;> simp
    rw [idle]
    exact ⟨.inl rfl, nofun, nofun, h.tx.okNoErr, h.tx.noPayload, h.tx.code⟩
  bt := by
    unfold sessionStartBody finishOpen closeIfOpen
    split <;> simpa using h.bt
  res := finishOpen_resAgrees _

/-- SESSION_END leaves the link closed (43_control.md R283). -/
theorem sessionEndBody_rests {s : State} (h : Rests s) : Rests (sessionEndBody s) where
  buffer := by
    unfold sessionEndBody closeIfOpen
    split <;> simpa using h.buffer
  session l := by simp [sessionEndBody] at l
  tx := by
    unfold sessionEndBody closeIfOpen
    split <;> simpa using h.tx
  bt := by
    unfold sessionEndBody closeIfOpen
    split <;> simpa using h.bt
  res := .of_success rfl

/-! ## The exchange -/

theorem TxRests.of_ended {s : State} (h : ExchangeEnded s) : TxRests s.tx := by
  rcases h with ⟨state, ok, err⟩ | ⟨state, ok, err, code, payload⟩
  · exact ⟨by simp [state], by simp [ok], by simp [state], by simp [err], by simp [ok], by simp [err, ErrCode.ofExchange]⟩
  · exact ⟨by simp [state], by simp [state], fun _ => ⟨ok, err⟩, by simp [ok], fun _ => payload, code⟩

/-- An exchange may leave the link open only where it was open or where there are saved parameters. -/
theorem transceiveBody_rests {s : State} (h : Rests s) (opc : Byte) (params : Bytes) (tmo : Half) (ign : Bool) :
    Rests (transceiveBody opc params tmo ign s) := by
  have tx := TxRests.of_ended (transceive_ended opc params tmo ign s)
  refine ⟨?buffer, ?session, tx, ?bt, ?res⟩
  case buffer => simpa [transceiveBody] using h.buffer
  case session =>
    intro l
    have saved := ((transceive_grows opc params tmo ign s).session l).elim h.session id
    simpa [transceiveBody] using saved
  case bt => simpa [transceiveBody] using h.bt
  case res => exact ⟨tx.okNoErr, hostOnly_eq_false_of_ofExchange tx.code⟩

/-! ## The block transfer -/

theorem refuseTransfer_rests {s : State} (h : Rests s) {e : ErrCode} (code : e.hostOnly = false) :
    Rests (refuseTransfer e s) := setPayload_rests (raiseError_rests h code) none

theorem attempt_txRests (params : Bytes) (tmo : Half) (s : State) : TxRests (attempt params tmo s).tx := by
  have tx := TxRests.of_ended (transceive_ended s.build.opcCont params tmo false (enterBt .send s))
  unfold attempt
  dsimp only
  split <;> exact tx

theorem probe_txRests (s : State) : TxRests (probe s).tx := .of_ended (transceive_ended _ _ _ _ _)

/-- Between two blocks, and after the last, the transceiver is at rest. -/
theorem sendBlocks_txRests {tmo : Half} {n k : Nat} {s t : State} (h : sendBlocks tmo n k s = .next t) (tx : TxRests s.tx) :
    TxRests t.tx := by
  refine sendBlocks_rel (fun a b => TxRests a.tx → TxRests b.tx) (fun f g => g ∘ f) (fun _ _ _ => id) (fun _ => id) ?_
    tmo n k s t h tx
  intro params tmo left s
  exact blockLoop_rel (fun a b => TxRests a.tx → TxRests b.tx) (fun f g => g ∘ f)
    (fun params tmo s _ => attempt_txRests params tmo s) (fun s _ => probe_txRests s) (fun _ => id) (fun _ => id)
    (fun _ _ => id) params tmo left s

/-- The loop of a block aborts with one of two errors (42_block_transfer.md R248, R249). -/
theorem blockLoop_aborted {params : Bytes} {tmo : Half} {left : Nat} {s t : State}
    (h : blockLoop params tmo left s = .aborted t) :
    ∃ e u, (e = .blockTransferFailed ∨ e = .linkLost) ∧ t = abort e u := by
  induction left generalizing s with
  | zero =>
    rcases blockLoop_cases params tmo 0 s with ⟨-, acked⟩ | ⟨-, -, lost⟩ | ⟨v, -, ⟨-, failed⟩ | ⟨l, more, -⟩⟩
    · rw [acked] at h; cases h
    · rw [lost] at h; cases h; exact ⟨_, _, .inr rfl, rfl⟩
    · rw [failed] at h; cases h; exact ⟨_, _, .inl rfl, rfl⟩
    · omega
  | succ left ih =>
    rcases blockLoop_cases params tmo (left + 1) s with ⟨-, acked⟩ | ⟨-, -, lost⟩ | ⟨v, -, ⟨none, -⟩ | ⟨l, more, again⟩⟩
    · rw [acked] at h; cases h
    · rw [lost] at h; cases h; exact ⟨_, _, .inr rfl, rfl⟩
    · omega
    · cases more; exact ih (again ▸ h)

/-- A transfer that was started ends completed or aborted (42_block_transfer.md R240, R241). -/
theorem sendBlocks_ends {tmo : Half} {n k : Nat} {s t : State} (h : sendBlocks tmo n k s = .next t) :
    (∃ u, t = completeTransfer u) ∨ ∃ e u, (e = .blockTransferFailed ∨ e = .linkLost) ∧ t = abort e u := by
  induction n generalizing k s with
  | zero => cases h; exact .inl ⟨s, rfl⟩
  | succ n ih =>
    unfold sendBlocks at h
    split at h
    · cases h
    · split at h
      · exact ih h
      · next aborted => cases h; exact .inr (blockLoop_aborted aborted)

/-- The end of a transfer, completed or aborted, leaves the engine at rest and a result that agrees. -/
theorem sendBlocks_btRests_resAgrees {tmo : Half} {n k : Nat} {s t : State} (h : sendBlocks tmo n k s = .next t) :
    BtRests t.bt.state ∧ ResAgrees t.res := by
  rcases sendBlocks_ends h with ⟨u, rfl⟩ | ⟨e, u, rfl | rfl, rfl⟩
  · exact ⟨.inr (.inl rfl), .of_success rfl⟩
  · exact ⟨.inr (.inr rfl), .of_error rfl rfl⟩
  · exact ⟨.inr (.inr rfl), .of_error rfl rfl⟩

theorem Loaded.bufferFits {data : Bytes} {bsize : Half} {s : State} (h : Loaded data bsize s) :
    BufferFits s.mem s.bt.len s.build.bufCap := by
  rw [h.mem, h.len]
  exact ⟨wf_loaded data, keys_loaded data, h.cap⟩

theorem sendBufferBody_rests {ext : Bool} {bsize : Half} {data : Bytes} {s t : State} (h : Rests s)
    (body : sendBufferBody ext bsize data s = .next t) : Rests t := by
  rcases sendBufferBody_cases body with ⟨e, rfl | rfl, rfl⟩ | ⟨started, sent⟩
  · exact refuseTransfer_rests h rfl
  · exact refuseTransfer_rests h rfl
  · have keeps := sendBlocks_keeps sent
    obtain ⟨bt, res⟩ := sendBlocks_btRests_resAgrees sent
    refine ⟨((transferStart_loaded started ext).keep keeps).bufferFits, ?session, sendBlocks_txRests sent h.tx, bt, res⟩
    case session =>
      intro l
      rw [keeps.savedParams]
      exact (keeps.session l).elim h.session id

/-! ## Every instruction -/

theorem command_inv {body : State → State} (keeps : ∀ {u : State}, Rests u → Rests (body u)) {s : State} (h : Rests s) :
    (command body s).Inv := (keeps h.accept).respond

/-- The HOST's result, the requests and the LINK's hang are none of the CORE's registers (log 12, log 15, log 20). -/
theorem inv_of_model_fields_written {s : State} (h : s.Inv) (hostRes : Option HostResult) (pending : List Request)
    (hangIn : Option Nat) : { s with hostRes := hostRes, pending := pending, hangIn := hangIn : State }.Inv := by
  obtain ⟨idle, rests⟩ := (inv_iff_idle_and_rests s).1 h
  exact (inv_iff_idle_and_rests _).2 ⟨idle, rests.buffer, rests.session, rests.tx, rests.bt, rests.res⟩

/-- A wrapper is one TRANSCEIVE, or no command at all. -/
theorem wire_inv {i : Instr} {s t : State} (inv : s.Inv) (wire : i.port = .wire) (h : exec i s = .next t) : t.Inv := by
  obtain ⟨-, rests⟩ := (inv_iff_idle_and_rests s).1 inv
  rcases exec_wire_cases wire h with ⟨opc, params, tmo, ign, rfl⟩ | rfl
  · exact inv_of_model_fields_written (command_inv (transceiveBody_rests · opc params tmo ign) rests) _ _ _
  · exact inv_of_model_fields_written inv _ _ _

/-- Every instruction keeps the invariant. -/
theorem exec_inv {i : Instr} {s t : State} (inv : s.Inv) (h : exec i s = .next t) : t.Inv := by
  obtain ⟨-, rests⟩ := (inv_iff_idle_and_rests s).1 inv
  cases i
  case nop => cases h; exact command_inv finishOk_rests rests
  case encode opc params => cases h; exact command_inv (encodeBody_rests · opc params) rests
  case decode quiet raw => cases h; exact command_inv (decodeBody_rests · quiet raw) rests
  case transceive ign opc params tmo => cases h; exact command_inv (transceiveBody_rests · opc params tmo ign) rests
  case sendBuffer ext bsize data =>
    obtain ⟨u, body, rfl⟩ := runCommand_eq_next_iff.1 h
    exact (sendBufferBody_rests rests.accept body).respond
  case sessionStart tp => cases h; exact command_inv (sessionStartBody_rests · tp) rests
  case sessionEnd => cases h; exact command_inv sessionEndBody_rests rests
  case cfgWrite addr v => cases h; exact command_inv (cfgWriteBody_rests · addr v) rests
  case cfgRead addr => cases h; exact command_inv (cfgReadBody_rests · addr) rests
  case statusRead => cases h; exact command_inv (fun r => finishOk_rests (setValue_rests r _)) rests
  all_goals exact wire_inv inv rfl h

theorem execIllegal_inv {s t : State} (inv : s.Inv) (h : execIllegal s = .next t) : t.Inv := by
  obtain ⟨-, rests⟩ := (inv_iff_idle_and_rests s).1 inv
  cases h
  exact command_inv (raiseError_rests · rfl) rests

/-! ## Every step -/

/-- A reset brings the invariant about, whatever state it finds (70_reset_and_hazards.md R400). -/
theorem resetCore_inv (s : State) : (resetCore s).Inv :=
  (inv_iff_idle_and_rests _).2
    ⟨rfl, ⟨rfl, rfl, Nat.zero_le _⟩, nofun, ⟨.inl rfl, nofun, nofun, fun _ => rfl, fun _ => rfl, rfl⟩, .inl rfl, .of_success rfl⟩

/-- What becomes of a command: it completes, or a reset cuts it (60_exceptions.md R391; 70_reset_and_hazards.md R402). -/
theorem settle_cases {before after t : State} (h : settle before after = .next t) :
    (∃ v, t = after.setHangIn v) ∨ ∃ u, t = resetCore u := by
  unfold settle at h
  dsimp only at h
  split at h
  · split at h
    · cases h
    · cases h
      unfold cutByReset
      split <;> exact .inr ⟨_, rfl⟩
  all_goals
    split at h
    · cases h
    · cases h
      exact .inl ⟨_, rfl⟩

theorem settle_inv {before after t : State} (inv : after.Inv) (h : settle before after = .next t) : t.Inv := by
  rcases settle_cases h with ⟨v, rfl⟩ | ⟨u, rfl⟩
  · exact inv_of_model_fields_written inv _ _ v
  · exact resetCore_inv u

theorem settleResult_inv {before t : State} {r : Result} (inv : ∀ after, r = .next after → after.Inv)
    (h : settleResult before r = .next t) : t.Inv := by
  cases r with
  | next after => exact settle_inv (inv after rfl) h
  | fault => cases h
  | refused => cases h

/-- Settles O56, by cases on what the step does: a reset, nothing, or a request whose instruction keeps the invariant. -/
theorem invariantKeptByStep : Obligations.InvariantKeptByStep := by
  intro s t inv h
  by_cases input : s.resetInput = .betweenCommands
  · simp only [step, input] at h
    cases h
    exact resetCore_inv s
  · cases pend : s.pending with
    | nil =>
      have waits : step s = .next s := by
        unfold step
        rw [inv.ready, pend]
        split
        · contradiction
        all_goals rfl
      rw [waits] at h
      cases h
      exact inv
    | cons r later =>
      have taken : (s.setPending later).Inv := inv_of_model_fields_written inv _ later _
      rw [step_request inv.ready input pend] at h
      split at h
      · exact settleResult_inv (fun _ => exec_inv taken) h
      · exact settleResult_inv (fun _ => execIllegal_inv taken) h
      · cases h

end Sys2Proof.Machine
end


-- ==== Sys2Proof/Proofs/BlockBuffer.lean ====
section
/-! The block buffer under SEND_BUFFER (20_memory.md R91, R92): every block of a transfer is there to read, and what `BT_BUF`
holds at its end. -/

namespace Sys2Proof.Machine

/-! ## A transfer always ends -/

theorem blockLoop_acknowledged_keeps {params : Bytes} {tmo : Half} {left : Nat} {s t : State}
    (h : blockLoop params tmo left s = .acknowledged t) : TransferKeeps s t := by
  have keeps := blockLoop_keeps params tmo left s
  rwa [h] at keeps

/-- With every block inside the loaded buffer, the engine reads each one it sends. -/
theorem sendBlocks_next_of_loaded {data : Bytes} {bsize : Half} (b : bsize ≠ 0) (tmo : Half) {n k : Nat} {s : State}
    (loaded : Loaded data bsize s) (k1 : 1 ≤ k) (last : n + k ≤ numBlocks data.length bsize.toNat + 1) :
    ∃ t, sendBlocks tmo n k s = .next t := by
  induction n generalizing k s with
  | zero => exact ⟨_, rfl⟩
  | succ n ih =>
    simp only [sendBlocks, loaded.block b k1 (by omega)]
    split
    · next u acked =>
      have keeps : TransferKeeps s u := (startBlock_keeps ..).trans (blockLoop_acknowledged_keeps acked)
      exact ih (loaded.keep keeps) (by omega) (by omega)
    · exact ⟨_, rfl⟩

theorem sendBufferBody_of_transferable {s : State} {bsize : Half} {data : Bytes} (h : s.transferable bsize data) (ext : Bool) :
    sendBufferBody ext bsize data s =
      sendBlocks (transferTimeout ext s.cfg) (numBlocks data.length bsize.toNat) 1 (transferStart ext bsize data s) :=
  sendBufferBody_started h.1 ((transferOutOfRange_iff bsize data h.1).2 h)

/-- A transfer that fails a start check writes the result only (42_block_transfer.md R241). -/
theorem sendBufferBody_of_not_transferable {s : State} {bsize : Half} {data : Bytes} (h : ¬s.transferable bsize data)
    (ext : Bool) : ∃ e, sendBufferBody ext bsize data s = .next (refuseTransfer e s) := by
  cases link : s.linkOpen with
  | false => exact ⟨_, sendBufferBody_closed link ext bsize data⟩
  | true =>
    have outOfRange : transferOutOfRange bsize data.length s = true :=
      Bool.eq_true_of_not_eq_false (mt (transferOutOfRange_iff bsize data link).1 h)
    exact ⟨_, sendBufferBody_refused link outOfRange⟩

/-- Settles O37: a refused transfer reads nothing, and one that starts reads only blocks of the buffer it has loaded. -/
theorem sendBufferNeverFaults : Obligations.SendBufferNeverFaults := by
  intro s ext bsize data
  suffices ∃ u, sendBufferBody ext bsize data (accept s) = .next u by
    obtain ⟨u, body⟩ := this
    exact ⟨respond u, runCommand_eq_next_iff.2 ⟨u, body, rfl⟩⟩
  by_cases started : (accept s).transferable bsize data
  · rw [sendBufferBody_of_transferable started]
    exact sendBlocks_next_of_loaded started.2.1 _ (transferStart_loaded started ext) (Nat.le_refl 1) (Nat.le_refl _)
  · obtain ⟨e, refused⟩ := sendBufferBody_of_not_transferable started ext
    exact ⟨_, refused⟩

/-! ## What `BT_BUF` holds -/

/-- The buffer of a transfer under way stays loaded to its end, however it ends. -/
theorem sendBufferBody_loaded {ext : Bool} {bsize : Half} {data : Bytes} {s t : State} (started : s.transferable bsize data)
    (body : sendBufferBody ext bsize data s = .next t) : Loaded data bsize t := by
  rw [sendBufferBody_of_transferable started] at body
  exact (transferStart_loaded started ext).keep (sendBlocks_keeps body)

theorem Loaded.readByte {data : Bytes} {bsize : Half} {s : State} (h : Loaded data bsize s) (a : Nat) :
    s.mem.readByte a = data[a]? := by
  rw [h.mem, readByte_loaded]

/-- Settles O38: a transfer that starts keeps the buffer it loaded, and a refusal writes the result registers only. -/
theorem sendBufferLoadsBuffer : Obligations.SendBufferLoadsBuffer := by
  intro s t ext bsize data h
  obtain ⟨u, body, rfl⟩ := runCommand_eq_next_iff.1 h
  constructor
  · intro started
    have loaded : Loaded data bsize u := sendBufferBody_loaded (s := accept s) started body
    exact ⟨loaded.len, loaded.readByte⟩
  · intro refused
    obtain ⟨e, same⟩ := sendBufferBody_of_not_transferable (s := accept s) refused ext
    rw [same] at body
    cases body
    exact ⟨rfl, fun _ => rfl⟩

end Sys2Proof.Machine
end

