-- ==== Sys2Proof/Proofs/Encoding.lean ====
section
/-! The two encodings of 30_encoding.md: every operand reader undoes its writer and reads nothing else, so decoding and
encoding agree. -/

namespace Sys2Proof

/-! ## Fields of a word -/

theorem lo_append (h l : Byte) : lo (h ++ l : BitVec (8 + 8)) = l := BitVec.extractLsb'_append_eq_right
theorem hi_append (h l : Byte) : hi (h ++ l : BitVec (8 + 8)) = h := BitVec.extractLsb'_append_eq_left

theorem hi_append_lo (v : Half) : (hi v ++ lo v : BitVec (8 + 8)) = v :=
  (BitVec.extractLsb'_append_extractLsb'_eq_extractLsb' rfl).trans BitVec.extractLsb'_eq_self

theorem wordBytes_append (b3 b2 b1 b0 : Byte) :
    wordBytes (b3 ++ b2 ++ b1 ++ b0 : BitVec (8 + 8 + 8 + 8)) = [b0, b1, b2, b3] := by
  simp only [wordBytes, List.cons.injEq, and_true]
  have skip {n : Nat} (high : BitVec n) (low : Byte) (start : Nat) :
      (high ++ low).extractLsb' (start + 8) 8 = high.extractLsb' start 8 :=
    BitVec.extractLsb'_append_eq_of_le (Nat.le_add_left ..)
  exact ⟨BitVec.extractLsb'_append_eq_right, (skip _ _ 0).trans BitVec.extractLsb'_append_eq_right,
    (skip _ _ 8).trans ((skip _ _ 0).trans BitVec.extractLsb'_append_eq_right),
    (skip _ _ 16).trans ((skip _ _ 8).trans BitVec.extractLsb'_append_eq_left)⟩

theorem append_extractLsb'_bytes (v : Word) :
    (v.extractLsb' 24 8 ++ v.extractLsb' 16 8 ++ v.extractLsb' 8 8 ++ v.extractLsb' 0 8 : BitVec (8 + 8 + 8 + 8)) = v := by
  have join (start len : Nat) : v.extractLsb' (start + 8) len ++ v.extractLsb' start 8 = v.extractLsb' start (len + 8) :=
    BitVec.extractLsb'_append_extractLsb'_eq_extractLsb' rfl
  rw [join 16 8, join 8 (8 + 8), join 0 (8 + 8 + 8)]
  exact BitVec.extractLsb'_eq_self

/-! ## Operands (30_encoding.md R121): a reader answers exactly what the writer wrote -/

theorem takeByte_iff {bs rest : Bytes} {b : Byte} : takeByte bs = some (b, rest) ↔ bs = b :: rest := by
  cases bs <;> simp [takeByte]

theorem takeHalf_append (v : Half) (rest : Bytes) : takeHalf (halfBytes v ++ rest) = some (v, rest) := by
  simp only [halfBytes, List.cons_append, List.nil_append, takeHalf, hi_append_lo]

theorem takeHalf_iff {bs rest : Bytes} {v : Half} : takeHalf bs = some (v, rest) ↔ bs = halfBytes v ++ rest := by
  constructor
  · intro h
    match bs, h with
    | b0 :: b1 :: _, h =>
      cases h
      simp only [halfBytes, lo_append, hi_append, List.cons_append, List.nil_append]
  · rintro rfl
    exact takeHalf_append v rest

theorem takeWord_append (v : Word) (rest : Bytes) : takeWord (wordBytes v ++ rest) = some (v, rest) := by
  simp only [wordBytes, List.cons_append, List.nil_append, takeWord, append_extractLsb'_bytes]

theorem takeWord_iff {bs rest : Bytes} {v : Word} : takeWord bs = some (v, rest) ↔ bs = wordBytes v ++ rest := by
  constructor
  · intro h
    match bs, h with
    | b0 :: b1 :: b2 :: b3 :: _, h =>
      cases h
      simp only [wordBytes_append, List.cons_append, List.nil_append]
  · rintro rfl
    exact takeWord_append v rest

theorem length_ofNat_toNat {v : Bytes} (h : fitsLength v = true) : (BitVec.ofNat 32 v.length).toNat = v.length := by
  simp only [fitsLength, decide_eq_true_eq] at h
  rw [BitVec.toNat_ofNat, Nat.mod_eq_of_lt h]

theorem takeString_append {v : Bytes} (h : fitsLength v = true) (rest : Bytes) :
    takeString (stringBytes v ++ rest) = some (v, rest) := by
  simp [takeString, stringBytes, takeWord_append, length_ofNat_toNat h]

/-- A byte string that was read has a length that its field can say. -/
theorem takeString_iff {bs rest v : Bytes} :
    takeString bs = some (v, rest) ↔ fitsLength v = true ∧ bs = stringBytes v ++ rest := by
  constructor
  · intro h
    unfold takeString at h
    split at h
    · next len tail read =>
      split at h
      · next enough =>
        cases h
        have length : (tail.take len.toNat).length = len.toNat := List.length_take_of_le enough
        refine ⟨by simpa only [fitsLength, length, decide_eq_true_eq] using len.isLt, ?_⟩
        simp [stringBytes, takeWord_iff.1 read, length]
      · cases h
    · cases h
  · rintro ⟨fits, rfl⟩
    exact takeString_append fits rest

/-! ## The command word (30_encoding.md R121, R123) -/

theorem extractLsb'_commandWord (code : BitVec 4) (f : Bool) : (commandWord code f).extractLsb' 0 4 = code :=
  BitVec.extractLsb'_append_eq_right

theorem cmdFlag_commandWord (code : BitVec 4) (f : Bool) : cmdFlag (commandWord code f) = f := by
  simp only [cmdFlag, commandWord]
  rw [BitVec.getLsbD_append, BitVec.getLsbD_append]
  simp

/-- A word whose reserved bits are zero is its code and its flag. -/
theorem eq_commandWord {w : Byte} (reserved : w.extractLsb' 5 3 = 0#3) :
    w = commandWord (w.extractLsb' 0 4) (cmdFlag w) := by
  revert w; decide

/-! ## Commands (30_encoding.md R122) -/

theorem Decoded.ofOperands_eq_instr_iff {o : Option (Instr × Bytes)} {i : Instr} {rest : Bytes} :
    Decoded.ofOperands o = .instr i rest ↔ o = some (i, rest) := by
  cases o <;> simp [Decoded.ofOperands, Prod.ext_iff]

/-- A command decodes where its word is legal and its operands are read. -/
theorem decode_command_iff {code : BitVec 4} {f : Bool} {bs rest : Bytes} {i : Instr} :
    decode .command (commandWord code f :: bs) = .instr i rest ↔
      illegalWord (commandWord code f) = false ∧ commandOperands code.toNat f bs = some (i, rest) := by
  simp only [decode, decodeCommand, extractLsb'_commandWord, cmdFlag_commandWord]
  cases illegalWord (commandWord code f) <;> simp [Decoded.ofOperands_eq_instr_iff]

/-- Every command's operands are read back from its encoding, whose word is legal with either flag that it can carry. -/
theorem decode_encode_command {i : Instr} (command : i.port = .command) (wf : i.wellFormed = true) (rest : Bytes) :
    decode .command (encode i ++ rest) = .instr i rest := by
  cases i
  case nop | sessionEnd | statusRead => exact decode_command_iff.2 ⟨by decide, rfl⟩
  case encode opc params =>
    exact decode_command_iff.2 ⟨by decide, by simp [commandOperands, takeByte, takeString_append wf]⟩
  case decode quiet raw =>
    exact decode_command_iff.2 ⟨by cases quiet <;> rfl, by simp [commandOperands, takeString_append wf]⟩
  case transceive ign opc params timeout =>
    exact decode_command_iff.2
      ⟨by cases ign <;> rfl, by simp [commandOperands, takeByte, takeString_append wf, takeHalf_append]⟩
  case sendBuffer ext bsize data =>
    exact decode_command_iff.2
      ⟨by cases ext <;> rfl, by simp [commandOperands, takeHalf_append, takeString_append wf]⟩
  case sessionStart tparams =>
    exact decode_command_iff.2 ⟨by decide, by simp [commandOperands, takeString_append wf]⟩
  case cfgWrite addr value =>
    exact decode_command_iff.2 ⟨by decide, by simp [commandOperands, takeByte, takeWord_append]⟩
  case cfgRead addr => exact decode_command_iff.2 ⟨by decide, by simp [commandOperands, takeByte]⟩
  all_goals cases command

/-- The operands of a legal command word and the word before them are the encoding of what they were read as. The cases
are the codes of R122 in order; DECODE, TRANSCEIVE and SEND_BUFFER come first, since only they carry a flag. -/
theorem encode_of_commandOperands {code : Nat} {f : Bool} {bs rest : Bytes} {i : Instr}
    (flag : f = true → flaggedCode code = true) (h : commandOperands code f bs = some (i, rest)) :
    commandWord (BitVec.ofNat 4 code) f :: bs = encode i ++ rest ∧ i.wellFormed = true ∧ i.port = .command := by
  unfold commandOperands at h
  split at h
  all_goals
    simp only [Option.bind_eq_bind, Option.bind_eq_some_iff, Option.some.injEq, Prod.mk.injEq, Prod.exists, takeByte_iff,
      takeHalf_iff, takeWord_iff, takeString_iff, exists_eq_right_right, ↓existsAndEq, true_and, and_true, reduceCtorEq] at h
  case h_3 =>
    obtain ⟨raw, ⟨wf, rfl⟩, rfl⟩ := h
    exact ⟨rfl, wf, rfl⟩
  case h_4 =>
    obtain ⟨opc, params, timeout, rfl, wf, rfl⟩ := h
    exact ⟨by simp [encode], wf, rfl⟩
  case h_5 =>
    obtain ⟨bsize, data, rfl, wf, rfl⟩ := h
    exact ⟨by simp [encode], wf, rfl⟩
  all_goals obtain rfl : f = false := by simpa [flaggedCode] using flag
  case h_1 | h_7 | h_10 =>
    obtain ⟨rfl, rfl⟩ := h
    exact ⟨rfl, rfl, rfl⟩
  case h_2 =>
    obtain ⟨opc, params, rfl, wf, rfl⟩ := h
    exact ⟨rfl, wf, rfl⟩
  case h_6 =>
    obtain ⟨tparams, ⟨wf, rfl⟩, rfl⟩ := h
    exact ⟨rfl, wf, rfl⟩
  case h_8 =>
    obtain ⟨addr, value, rfl, rfl⟩ := h
    exact ⟨rfl, rfl, rfl⟩
  case h_9 =>
    obtain ⟨addr, rfl, rfl⟩ := h
    exact ⟨rfl, rfl, rfl⟩

/-- A word that is not illegal is the word of a code and a flag that the code may carry (R123). -/
theorem exists_commandWord_of_legal {w : Byte} (legal : illegalWord w = false) :
    ∃ code f, w = commandWord code f ∧ (f = true → flaggedCode code.toNat = true) := by
  simp only [illegalWord, Bool.or_eq_false_iff, bne_eq_false_iff_eq] at legal
  obtain ⟨⟨reserved, -⟩, flag⟩ := legal
  exact ⟨_, _, eq_commandWord reserved, by simpa using flag⟩

theorem encode_of_decode_command {bs rest : Bytes} {i : Instr} (h : decode .command bs = .instr i rest) :
    bs = encode i ++ rest ∧ i.wellFormed = true ∧ i.port = .command := by
  cases bs with
  | nil => cases h
  | cons w bs =>
    have legal : illegalWord w = false := by
      cases illegal : illegalWord w with
      | false => rfl
      | true => simp [decode, decodeCommand, illegal] at h
    obtain ⟨code, f, rfl, flag⟩ := exists_commandWord_of_legal legal
    have operands := (decode_command_iff.1 h).2
    simpa using encode_of_commandOperands flag operands

/-! ## Wrapper calls (44_wire_commands.md R310, log 2; 30_encoding.md R115, log 5) -/

theorem timeoutOnly_iff {ctor : Half → Instr} {bs rest : Bytes} {i : Instr} :
    wireOperands.timeoutOnly ctor bs = some (i, rest) ↔ ∃ t, bs = halfBytes t ++ rest ∧ ctor t = i := by
  simp [wireOperands.timeoutOnly, Option.bind_eq_some_iff, takeHalf_iff]

/-- A wrapper call decodes where the identity of its opcode is in the table and its operands are read. -/
theorem decode_wire_iff {op : Byte} {bs rest : Bytes} {i : Instr} :
    decode .wire (op :: bs) = .instr i rest ↔ wireOperands (wireIdentity op).toNat bs = some (some (i, rest)) := by
  simp only [decode, decodeWire]
  cases wireOperands (wireIdentity op).toNat bs <;> simp [Decoded.ofOperands_eq_instr_iff]

/-- Every wrapper's operands are read back from its encoding. -/
theorem decode_encode_wire {i : Instr} (wire : i.port = .wire) (wf : i.wellFormed = true) (rest : Bytes) :
    decode .wire (encode i ++ rest) = .instr i rest := by
  cases i
  case ping t | getVersions t | getBatteryPower t | stopAllTasks t | deleteAllTasks t | deleteAllSubs t | goIntoBootMode t
      | unlockFirmware t =>
    exact decode_wire_iff.2 (congrArg some (timeoutOnly_iff.2 ⟨t, rfl, rfl⟩))
  case selectProgram slot t =>
    exact decode_wire_iff.2 (by simp [wireOperands, wireIdentity, takeWord_append, takeHalf_append])
  case beginTaskDownload task size t =>
    exact decode_wire_iff.2 (by simp [wireOperands, wireIdentity, takeByte, takeWord_append, takeHalf_append])
  case continueDownload idx data t =>
    exact decode_wire_iff.2 (by simp [wireOperands, wireIdentity, takeHalf_append, takeString_append wf])
  case beginFirmwareDownload addr cs t =>
    exact decode_wire_iff.2 (by simp [wireOperands, wireIdentity, takeHalf_append])
  case remote msg t => exact decode_wire_iff.2 (by simp [wireOperands, wireIdentity, takeHalf_append])
  case playTone freq dur t =>
    exact decode_wire_iff.2 (by simp [wireOperands, wireIdentity, takeWord_append, takeHalf_append])
  case playSystemSound sound t =>
    exact decode_wire_iff.2 (by simp [wireOperands, wireIdentity, takeWord_append, takeHalf_append])
  all_goals cases wire

/-- The operands of an opcode of the table and the opcode before them are the encoding of what they were read as. The cases
are the rows of R310 in order, those with the same number of operands together. -/
theorem encode_of_wireOperands {op : Nat} {bs rest : Bytes} {i : Instr} (h : wireOperands op bs = some (some (i, rest))) :
    BitVec.ofNat 8 op :: bs = encode i ++ rest ∧ i.wellFormed = true ∧ i.port = .wire := by
  unfold wireOperands at h
  split at h
  all_goals
    simp only [Option.bind_eq_bind, Option.bind_eq_some_iff, Option.some.injEq, Prod.mk.injEq, Prod.exists, takeByte_iff,
      takeHalf_iff, takeWord_iff, takeString_iff, timeoutOnly_iff, exists_eq_right_right, ↓existsAndEq, true_and, and_true,
      reduceCtorEq] at h
  case h_1 | h_2 | h_3 | h_5 | h_6 | h_7 | h_10 | h_12 =>
    obtain ⟨t, rfl, rfl⟩ := h
    exact ⟨rfl, rfl, rfl⟩
  case h_4 | h_13 | h_15 =>
    obtain ⟨operand, t, rfl, rfl⟩ := h
    exact ⟨by simp [encode], rfl, rfl⟩
  case h_8 | h_11 | h_14 =>
    obtain ⟨first, second, t, rfl, rfl⟩ := h
    exact ⟨by simp [encode], rfl, rfl⟩
  case h_9 =>
    obtain ⟨idx, data, t, rfl, wf, rfl⟩ := h
    exact ⟨by simp [encode], wf, rfl⟩

theorem encode_of_decode_wire {op : Byte} {bs rest : Bytes} {i : Instr} (h : decode .wire (op :: bs) = .instr i rest) :
    wireIdentity op :: bs = encode i ++ rest ∧ i.wellFormed = true ∧ i.port = .wire := by
  simpa using encode_of_wireOperands (decode_wire_iff.1 h)

/-! ## The obligations -/

/-- Settles O1, by the encoding the instruction is written in. -/
theorem decodeOfEncode : Obligations.DecodeOfEncode := by
  intro i rest wf
  cases port : i.port with
  | command => exact decode_encode_command port wf rest
  | wire => exact decode_encode_wire port wf rest

/-- Settles O2: a legal word is its code and its flag, and its operands are what their readers' writers write. -/
theorem encodeOfDecodedCommand : Obligations.EncodeOfDecodedCommand :=
  fun _ _ _ => encode_of_decode_command

/-- Settles O3: the encoder writes the identity of the opcode that was read. -/
theorem encodeOfDecodedWrapper : Obligations.EncodeOfDecodedWrapper := by
  intro bs rest i h
  cases bs with
  | nil => cases h
  | cons op tail =>
    obtain ⟨bytes, wf, wire⟩ := encode_of_decode_wire h
    exact ⟨wf, wire, op, tail, rfl, bytes.symm⟩

/-- Settles O5, by evaluating the decoder on the nine byte strings. -/
theorem decodedWords : Obligations.DecodedWords := by
  refine ⟨?nop, ?encode, ?decode, ?transceive, ?sendBuffer, ?cfgWrite, ?illegal, ?selectProgram, ?unknown⟩ <;> decide

end Sys2Proof
end

