-- ==== Sys2Proof/Proofs/IllegalWords.lean ====
section
/-! The illegal command words (30_encoding.md R123) and the step that takes one (43_control.md R287). -/

namespace Sys2Proof

/-! ## Which words are illegal -/

theorem reservedBits_eq_zero_iff (w : Byte) : w.extractLsb' 5 3 = 0#3 ↔ w.toNat / 32 = 0 := by
  rw [← BitVec.toNat_inj, BitVec.extractLsb'_toNat, Nat.shiftRight_eq_div_pow]
  simp only [BitVec.toNat_ofNat]
  omega

theorem code_toNat (w : Byte) : (w.extractLsb' 0 4).toNat = w.toNat % 16 := by
  simp [BitVec.extractLsb'_toNat]

theorem cmdFlag_iff (w : Byte) : cmdFlag w = true ↔ w.toNat / 16 % 2 = 1 := by
  simp only [cmdFlag, ← BitVec.testBit_toNat, Nat.testBit_eq_decide_div_mod_eq, decide_eq_true_eq]

theorem flaggedCode_iff (code : Nat) : flaggedCode code = true ↔ code ∈ [2, 3, 4] := by
  simp [flaggedCode, or_assoc]

/-- The illegal words, by the value of the byte. -/
theorem illegalWord_iff (w : Byte) :
    illegalWord w = true ↔
      w.toNat / 32 ≠ 0 ∨ 10 ≤ w.toNat % 16 ∨ (w.toNat / 16 % 2 = 1 ∧ w.toNat % 16 ∉ [2, 3, 4]) := by
  rw [← cmdFlag_iff, ← flaggedCode_iff, Ne, ← reservedBits_eq_zero_iff, ← code_toNat]
  simp [illegalWord, or_assoc]

/-! ## What the decoder answers to a command word -/

theorem decode_command_eq_illegal_iff (w : Byte) (bs : Bytes) :
    decode .command (w :: bs) = .illegal ↔ illegalWord w = true := by
  simp only [decode, decodeCommand]
  cases illegalWord w
  · cases commandOperands (w.extractLsb' 0 4).toNat (cmdFlag w) bs <;> simp [Decoded.ofOperands]
  · simp

theorem decode_command_ne_unknown (bs : Bytes) : decode .command bs ≠ .unknown := by
  cases bs with
  | nil => nofun
  | cons w bs =>
    simp only [decode, decodeCommand]
    split
    · nofun
    · cases commandOperands (w.extractLsb' 0 4).toNat (cmdFlag w) bs <;> nofun

theorem encode_ne_nil (i : Instr) : encode i ≠ [] := by
  cases i <;> exact List.cons_ne_nil _ _

/-- The word that decodes is the first byte of what it decodes to. -/
theorem head?_encode_of_decode_command {w : Byte} {bs rest : Bytes} {i : Instr}
    (h : decode .command (w :: bs) = .instr i rest) : (encode i).head? = some w := by
  obtain ⟨bytes, -, -⟩ := encode_of_decode_command h
  calc (encode i).head? = (encode i ++ rest).head? := (List.head?_append_of_ne_nil _ (encode_ne_nil i)).symm
    _ = some w := by rw [← bytes]; rfl

end Sys2Proof

namespace Sys2Proof.Machine

/-! ## The step that takes an illegal word (43_control.md R287) -/

theorem execIllegal_eq (s : State) : execIllegal s = .next (s.ended [] (s.res.failed .illegalCommand)) := by
  simp only [execIllegal, command, Host.Outcome.next.injEq]
  exact respond_eq_ended (s := s) (events := []) (by simp)

theorem readRequest_illegal {r : Request} (h : decode r.port r.bytes = .illegal) : readRequest r = .illegal := by
  simp only [readRequest, h]

/-- Any request at whose word the decoder stops: the bytes after the word change nothing. -/
theorem step_illegal {s : State} {r : Request} {later : List Request} (idle : s.cmdState = .idle)
    (input : s.resetInput = .notAsserted) (hang : s.hangIn = none) (pend : s.pending = r :: later)
    (illegal : decode r.port r.bytes = .illegal) :
    step s = .next (({ s with pending := later } : State).ended [] (s.res.failed .illegalCommand)) := by
  have noReset : s.resetInput ≠ .betweenCommands := by simp [input]
  rw [step_request idle noReset pend, readRequest_illegal illegal]
  simp only [execIllegal_eq, settleResult]
  exact settle_plain input hang rfl

/-- Settles O4, from the form of the illegal words, the decoder's answers and the step's equation. -/
theorem illegalCommandWord : Obligations.IllegalCommandWord := by
  intro w bs
  refine ⟨?words, decode_command_ne_unknown _, fun i rest => head?_encode_of_decode_command, ?step⟩
  case words => rw [decode_command_eq_illegal_iff, illegalWord_iff]
  case step => exact fun s later idle input hang pend => step_illegal idle input hang pend

end Sys2Proof.Machine
end

