-- ==== Sys2Proof/Proofs/FrameLayout.lean ====
section
/-! The frames of 30_encoding.md R110 and R111 byte by byte: where the pairs of a regular frame lie, and the checksum. -/

namespace Sys2Proof.Machine

/-! ## Pairs of a byte and its complement -/

theorem length_withComplements (bs : Bytes) : (withComplements bs).length = 2 * bs.length := by
  induction bs with
  | nil => rfl
  | cons b bs ih => simp only [withComplements, List.length_cons, ih]; omega

/-- Byte `k` is the first of pair `k`. -/
theorem getElem?_withComplements_even (bs : Bytes) (k : Nat) : (withComplements bs)[2 * k]? = bs[k]? := by
  induction bs generalizing k with
  | nil => rfl
  | cons b bs ih =>
    cases k with
    | zero => rfl
    | succ k => exact ih k

/-- Its complement is the second. -/
theorem getElem?_withComplements_odd (bs : Bytes) (k : Nat) :
    (withComplements bs)[2 * k + 1]? = bs[k]?.map (· ^^^ 0xFF) := by
  induction bs generalizing k with
  | nil => rfl
  | cons b bs ih =>
    cases k with
    | zero => exact congrArg some (byte_complement b).symm
    | succ k => exact ih k

/-! ## The checksum (30_encoding.md R117; 40_frame_codec.md R164) -/

theorem sumBytes_eq_sum (bs : Bytes) : sumBytes bs = (bs.map BitVec.toNat).sum := by
  induction bs with
  | nil => rfl
  | cons b bs ih => simp only [sumBytes, ih, List.map_cons, List.sum_cons]

theorem checksum_eq_ofNat_mod (op : Byte) (ps : Bytes) :
    checksum (op :: ps) = BitVec.ofNat 8 ((op.toNat + (ps.map BitVec.toNat).sum) % 256) := by
  apply BitVec.eq_of_toNat_eq
  simp [checksum, sumBytes, sumBytes_eq_sum]

theorem toNat_add_complement (b : Byte) : b.toNat + (b ^^^ 0xFF).toNat = 0xFF := by
  rw [byte_complement, BitVec.toNat_not]
  omega

/-! ## The frames -/

/-- A regular frame: the preamble, the pair of the opcode, the pairs of the parameters and of the checksum. -/
theorem frameOf_regular (op : Byte) (ps : Bytes) :
    frameOf false op ps = [0x55, 0xFF, 0x00, op, op ^^^ 0xFF] ++ withComplements (ps ++ [checksum (op :: ps)]) := by
  rw [byte_complement]
  rfl

/-- A fast frame: the preamble, the opcode, the parameters and the checksum. -/
theorem frameOf_fast (op : Byte) (ps : Bytes) :
    frameOf true op ps = [0xFF, op] ++ (ps ++ [checksum (op :: ps)]) := rfl

/-- Where the pair of byte `k` after the opcode lies in a regular frame. -/
theorem frameOf_regular_pair {op b : Byte} {ps : Bytes} {k : Nat} (h : (ps ++ [checksum (op :: ps)])[k]? = some b) :
    (frameOf false op ps)[5 + 2 * k]? = some b ∧ (frameOf false op ps)[6 + 2 * k]? = some (b ^^^ 0xFF) := by
  rw [frameOf_regular, Nat.add_comm 5, Nat.add_comm 6]
  exact ⟨(getElem?_withComplements_even _ k).trans h, (getElem?_withComplements_odd _ k).trans (congrArg (Option.map _) h)⟩

/-- Where byte `k` after the opcode lies in a fast frame. -/
theorem frameOf_fast_byte {op b : Byte} {ps : Bytes} {k : Nat} (h : (ps ++ [checksum (op :: ps)])[k]? = some b) :
    (frameOf true op ps)[2 + k]? = some b := by
  rw [frameOf_fast, Nat.add_comm 2]
  exact h

/-- Settles O21: after the opcode, either frame holds the parameters and then the checksum, in pairs or as they are. -/
theorem frameLayout : Obligations.FrameLayout := by
  intro op ps
  rw [← checksum_eq_ofNat_mod]
  intro cs f g
  have param {j : Nat} {p : Byte} (h : ps[j]? = some p) : (ps ++ [cs])[j]? = some p :=
    (List.getElem?_append_left (List.getElem?_eq_some_iff.1 h).1).trans h
  have last : (ps ++ [cs])[ps.length]? = some cs := List.getElem?_concat_length
  have regular : f = _ := frameOf_regular op ps
  have fast : g = _ := frameOf_fast op ps
  refine ⟨?length, ?head, fun _ _ h => frameOf_regular_pair (param h), (frameOf_regular_pair last).1,
    (frameOf_regular_pair last).2, toNat_add_complement cs, ?fastLength, rfl, fun _ _ h => frameOf_fast_byte (param h),
    frameOf_fast_byte last⟩
  case length =>
    simp only [regular, List.length_append, length_withComplements, List.length_cons, List.length_nil]
    omega
  case head => rw [regular]; rfl
  case fastLength =>
    simp only [fast, List.length_append, List.length_cons, List.length_nil]
    omega

end Sys2Proof.Machine
end

