-- ==== Sys2Proof/Proofs/Codec.lean ====
section
/-! ENCODE and DECODE as whole next states (40_frame_codec.md R165, R175), and the codec law: the decoder undoes the encoder,
and no single inverted bit of a regular frame's pairs goes unseen (R174). -/

namespace Sys2Proof.Machine

/-! ## ENCODE -/

/-- What EncodeFrame returns where it accepts, in the terms of Safety.lean. -/
theorem encodeResult_of_framable {s : State} {opc : Byte} {params : Bytes} (h : framable s.build opc params.length = true) :
    encodeResult opc params s = .ok (wireFrame s.cfg.fast (sentOpcode s.toggle opc) params) := by
  rw [encodeResult, (encodeCheck_none_iff ..).2 h, frameOf_eq_wireFrame, mixToggle_eq_sentOpcode]

theorem encodeToggle_of_framable {s : State} {opc : Byte} {params : Bytes} (h : framable s.build opc params.length = true) :
    encodeToggle opc params s = s.setToggle (!s.toggle) := by
  rw [encodeToggle, (encodeCheck_none_iff ..).2 h]

theorem exec_encode_of_framable {s : State} {opc : Byte} {params : Bytes} (h : framable s.build opc params.length = true) :
    exec (.encode opc params) s = .next
      { s.ended [] { s.res.succeeded with payload := some (wireFrame s.cfg.fast (sentOpcode s.toggle opc) params) } with
        toggle := !s.toggle } := by
  have accepted : framable (accept s).build opc params.length = true := h
  simp only [exec, execEncode, command, encodeBody, encodeResult_of_framable accepted, encodeToggle_of_framable accepted,
    Host.Outcome.next.injEq]
  exact respond_eq_ended (s := s) (events := []) (by simp)

/-- A refused ENCODE ends with the error of the first failing check. -/
theorem exec_encode_of_encodeCheck {s : State} {opc : Byte} {params : Bytes} {e : ErrCode}
    (h : encodeCheck s.build opc params.length = some e) :
    exec (.encode opc params) s = .next (s.ended [] { s.res.failed e with payload := none }) := by
  have refused : encodeCheck (accept s).build opc params.length = some e := h
  simp only [exec, execEncode, command, encodeBody, encodeResult, encodeToggle, refused, Host.Outcome.next.injEq]
  exact respond_eq_ended (s := s) (events := []) (by simp)

/-- Settles O20: EncodeFrame's checks are `framable`, and where they fail `encodeCheck_of_not_framable` names the first. -/
theorem encodeCompletes : Obligations.EncodeCompletes := by
  intro s opc params
  refine ⟨?word, exec_encode_of_framable, ?refused⟩
  case word => rw [encode, show commandWord 0x1 false = 0x01 by decide]; rfl
  case refused => exact fun h => exec_encode_of_encodeCheck (encodeCheck_of_not_framable h)

/-! ## Single-bit errors -/

theorem flipBit_cons_zero (b : Byte) (bs : Bytes) (k : Nat) : flipBit (b :: bs) 0 k = (b ^^^ BitVec.twoPow 8 k) :: bs := rfl

theorem flipBit_cons_succ (b : Byte) (bs : Bytes) (j k : Nat) : flipBit (b :: bs) (j + 1) k = b :: flipBit bs j k := rfl

theorem pairs_cons (b : Byte) (bs : Bytes) : pairs (b :: bs) = b :: (b ^^^ 0xFF) :: pairs bs := rfl

theorem length_flipBit (bs : Bytes) (j k : Nat) : (flipBit bs j k).length = bs.length := List.length_set

/-- Inverting a bit changes the byte. -/
theorem xor_twoPow_ne (b : Byte) {k : Nat} (bit : k < 8) : b ^^^ BitVec.twoPow 8 k ≠ b := by
  intro same
  have : (b ^^^ BitVec.twoPow 8 k).getLsbD k = b.getLsbD k := congrArg (·.getLsbD k) same
  simp [bit] at this

/-- A byte determines its complement, so an inverted bit in one half of a pair leaves no pair. -/
theorem flipBit_pairs_ne_pairs (bs q : Bytes) {j k : Nat} (inside : j < (pairs bs).length) (bit : k < 8) :
    flipBit (pairs bs) j k ≠ pairs q := by
  induction bs generalizing q j with
  | nil => simp [pairs] at inside
  | cons b bs ih =>
    cases q with
    | nil =>
      intro empty
      simpa [length_flipBit, pairs_cons, pairs] using congrArg List.length empty
    | cons c q =>
      rw [pairs_cons, pairs_cons]
      match j with
      | 0 =>
        rw [flipBit_cons_zero, ne_eq, List.cons.injEq, List.cons.injEq]
        rintro ⟨first, second, -⟩
        exact xor_twoPow_ne b bit (first.trans ((BitVec.xor_left_inj _).1 second).symm)
      | 1 =>
        rw [flipBit_cons_succ, flipBit_cons_zero, ne_eq, List.cons.injEq, List.cons.injEq]
        rintro ⟨rfl, second, -⟩
        exact xor_twoPow_ne _ bit second
      | j + 2 =>
        rw [flipBit_cons_succ, flipBit_cons_succ, ne_eq, List.cons.injEq, List.cons.injEq]
        rintro ⟨-, -, rest⟩
        refine ih q ?_ rest
        simpa [pairs_cons] using inside

/-- An inverted bit after the preamble leaves the preamble and spoils a pair (40_frame_codec.md R170). -/
theorem decodeFrame_flipBit_regularFrame (op : Byte) (params : Bytes) {j k : Nat} (afterPre : 3 ≤ j)
    (inside : j < (regularFrame op params).length) (bit : k < 8) :
    (decodeFrame false (flipBit (regularFrame op params) j k)).1 = false := by
  obtain ⟨i, rfl⟩ := Nat.exists_eq_add_of_le' afterPre
  have inPairs : i < (pairs (op :: params ++ [byteSum (op :: params)])).length := by
    simpa [regularFrame] using inside
  by_contra valid
  have decoded := decodeFrame_valid_iff.1 (Prod.ext (Bool.eq_true_of_not_eq_false valid) rfl)
  exact flipBit_pairs_ne_pairs _ _ inPairs bit (Option.some.inj decoded)

/-- What EncodeFrame returns, whenever it returns a frame. -/
theorem eq_wireFrame_of_encodeResult {s : State} {opc : Byte} {params f : Bytes} (h : encodeResult opc params s = .ok f) :
    f = wireFrame s.cfg.fast (sentOpcode s.toggle opc) params := by
  cases check : encodeCheck s.build opc params.length with
  | some e => simp [encodeResult, check] at h
  | none =>
    rw [encodeResult_of_framable ((encodeCheck_none_iff ..).1 check)] at h
    exact (Except.ok.inj h).symm

/-- Settles O22: a frame holds the body of its payload after the preamble, and no single bit of its pairs can be inverted
unseen. -/
theorem codecLaw : Obligations.CodecLaw := by
  intro s opc params f h
  rw [eq_wireFrame_of_encodeResult h]
  refine ⟨decodeFrame_valid_iff.2 (afterPreamble_wireFrame ..), ?_⟩
  intro regular j k
  rw [regular]
  exact decodeFrame_flipBit_regularFrame _ _

/-! ## DECODE -/

theorem exec_decode_of_valid {s : State} {raw p : Bytes} (h : decodeFrame s.cfg.fast raw = (true, p)) (quiet : Bool) :
    exec (.decode quiet raw) s = .next (s.ended [] { s.res.succeeded with valid := true, payload := some p }) := by
  simp only [exec, execDecode, command, decodeBody, accept_cfg, h, if_true, Host.Outcome.next.injEq]
  exact respond_eq_ended (s := s) (events := []) (by simp)

/-- The diagnostic event is one or none, and QUIET suppresses it (60_exceptions.md R395). -/
theorem diagEvents_eq (quiet : Bool) (p : Bytes) (s : State) :
    ∃ diag : Bool, (quiet = true → diag = false) ∧ diagEvents quiet p s = if diag then [.diag p] else [] :=
  ⟨!quiet && Config.freeDiag s.trace.length, fun q => by simp [q], rfl⟩

theorem exec_decode_of_invalid {s : State} {raw p : Bytes} (h : decodeFrame s.cfg.fast raw = (false, p)) (quiet : Bool) :
    ∃ diag : Bool, (quiet = true → diag = false) ∧
      exec (.decode quiet raw) s = .next (s.ended (if diag then [.diag p] else [])
        { s.res.failed .decodeError with valid := false, payload := some p }) := by
  obtain ⟨diag, quiets, events⟩ := diagEvents_eq quiet p s
  refine ⟨diag, quiets, ?_⟩
  rw [← events]
  simp only [exec, execDecode, command, decodeBody, accept_cfg, h, Host.Outcome.next.injEq]
  exact respond_eq_ended (s := s) (events := diagEvents quiet p s) rfl

/-- Settles O23: DecodeFrame is valid exactly on the body of a payload, and each of its answers gives DECODE's next state. -/
theorem decodeCompletes : Obligations.DecodeCompletes := by
  intro s quiet raw
  refine ⟨?word, ?valid, ?invalid⟩
  case word => cases quiet <;> exact congrArg some (by decide)
  case valid => exact fun p h => exec_decode_of_valid (decodeFrame_valid_iff.2 h) quiet
  case invalid => exact fun h => exec_decode_of_invalid (decodeFrame_invalid h) quiet

end Sys2Proof.Machine
end

