-- ==== Sys2Proof/Proofs/ToggleBit.lean ====
section
/-! TOGGLE counts the frames written (40_frame_codec.md R162; 10_state.md R34): what each stage of a transfer adds to the trace
composes, and every other instruction that the statement is about writes no frame and leaves TOGGLE, or is one exchange. -/

namespace Sys2Proof.Machine

/-! ## The blocks of a transfer -/

/-- What a stage adds, however many frames and progress events it is: the parameters of `Adds` that a loop does not fix. -/
def AddsSome (s t : State) : Prop := ∃ frames ps, Adds frames ps s t

theorem Adds.some {frames : Nat} {ps : List (BlockOrdinal × BlockOrdinal × Word)} {s t : State} (h : Adds frames ps s t) :
    AddsSome s t := ⟨frames, ps, h⟩

theorem AddsSome.trans {a b c : State} : AddsSome a b → AddsSome b c → AddsSome a c
  | ⟨_, _, h⟩, ⟨_, _, g⟩ => (Adds.trans h g).some

theorem AddsSome.same {s t : State} (trace : t.trace = s.trace) (toggle : t.toggle = s.toggle) (cfg : t.cfg = s.cfg) :
    AddsSome s t := (Adds.same trace toggle cfg).some

theorem blockLoop_adds (params : Bytes) (tmo : Half) (left : Nat) (s : State) :
    AddsSome s (blockLoop params tmo left s).state :=
  blockLoop_rel AddsSome AddsSome.trans (fun params tmo s => (attempt_adds params tmo s).some) (fun s => (probe_adds s).some)
    (fun s => (backoff_adds s).some) (fun s => (acknowledge_adds s).some) (fun _ _ => .same rfl rfl rfl) params tmo left s

theorem sendBlocks_adds {tmo : Half} {n k : Nat} {s t : State} (h : sendBlocks tmo n k s = .next t) : AddsSome s t :=
  sendBlocks_rel AddsSome AddsSome.trans (fun _ _ _ => .same rfl rfl rfl) (fun _ => .same rfl rfl rfl) blockLoop_adds
    tmo n k s t h

theorem sendBufferBody_adds {ext : Bool} {bsize : Half} {data : Bytes} {s t : State}
    (h : sendBufferBody ext bsize data s = .next t) : AddsSome s t := by
  rcases sendBufferBody_cases h with ⟨e, -, rfl⟩ | ⟨-, sent⟩
  · exact .same rfl rfl rfl
  · exact AddsSome.trans (b := transferStart ext bsize data s) (.same rfl rfl rfl) (sendBlocks_adds sent)

/-! ## Every instruction -/

/-- `t` comes after `s` by some events, with TOGGLE inverted once for each frame among them. -/
def TogglesPerFrame (s t : State) : Prop :=
  ∃ es, t.trace = s.trace ++ es ∧ t.toggle = (s.toggle ^^ decide ((framesWritten es).length % 2 = 1))

theorem TogglesPerFrame.eventsSince {s t : State} (h : TogglesPerFrame s t) :
    t.toggle = (s.toggle ^^ decide ((framesWritten (t.eventsSince s)).length % 2 = 1)) := by
  obtain ⟨es, trace, toggle⟩ := h
  rw [eventsSince_eq trace, toggle]

theorem AddsSome.togglesPerFrame {s t : State} (h : AddsSome s t) (off : s.cfg.resetOnReconnect = false) :
    TogglesPerFrame s t := by
  obtain ⟨_, _, adds⟩ := h
  exact ⟨_, trace_eq_of_prefix adds.trace, adds.toggle off⟩

theorem TogglesPerFrame.of_no_frame {s t : State} {es : List Event} (trace : t.trace = s.trace ++ es)
    (noFrame : framesWritten es = []) (toggle : t.toggle = s.toggle) : TogglesPerFrame s t :=
  ⟨es, trace, by simp [noFrame, toggle]⟩

theorem TogglesPerFrame.same {s t : State} (trace : t.trace = s.trace) (toggle : t.toggle = s.toggle) :
    TogglesPerFrame s t := .of_no_frame (es := []) (by simp [trace]) rfl toggle

/-- The response is no frame. -/
theorem TogglesPerFrame.of_body {s u : State} (h : TogglesPerFrame (accept s) u) : TogglesPerFrame s (respond u) := by
  obtain ⟨es, trace, toggle⟩ := h
  refine ⟨es ++ [.response (responseOf u.res)], ?_, ?_⟩
  · simp [trace]
  · simpa [framesWritten] using toggle

@[simp] theorem framesWritten_diagEvents (quiet : Bool) (p : Bytes) (s : State) :
    framesWritten (diagEvents quiet p s) = [] := by
  unfold diagEvents
  split <;> rfl

theorem decodeBody_togglesPerFrame (quiet : Bool) (raw : Bytes) (s : State) :
    TogglesPerFrame s (decodeBody quiet raw s) := by
  unfold decodeBody
  dsimp only
  split
  · exact .same rfl rfl
  · exact .of_no_frame rfl (framesWritten_diagEvents ..) rfl

theorem sessionEndBody_togglesPerFrame (s : State) : TogglesPerFrame s (sessionEndBody s) := by
  unfold sessionEndBody closeIfOpen
  split
  · exact .of_no_frame (es := [.closed]) (by simp) rfl (by simp)
  · exact .same rfl rfl

theorem cfgWriteBody_togglesPerFrame (addr : Byte) (v : Word) (s : State) : TogglesPerFrame s (cfgWriteBody addr v s) := by
  unfold cfgWriteBody
  split <;> exact .same rfl rfl

theorem cfgReadBody_togglesPerFrame (addr : Byte) (s : State) : TogglesPerFrame s (cfgReadBody addr s) := by
  unfold cfgReadBody
  split <;> exact .same rfl rfl

theorem transceiveBody_togglesPerFrame {s : State} (off : s.cfg.resetOnReconnect = false) (opc : Byte) (params : Bytes)
    (tmo : Half) (ign : Bool) : TogglesPerFrame s (transceiveBody opc params tmo ign s) :=
  (transceive_adds opc params tmo ign s).some.togglesPerFrame off

/-- A wrapper is one TRANSCEIVE, or no command at all. -/
theorem wire_togglesPerFrame {i : Instr} {s t : State} (wire : i.port = .wire) (h : exec i s = .next t)
    (off : s.cfg.resetOnReconnect = false) : TogglesPerFrame s t := by
  rcases exec_wire_cases wire h with ⟨opc, params, tmo, ign, rfl⟩ | rfl
  · exact (transceiveBody_togglesPerFrame (s := accept s) off opc params tmo ign).of_body
  · exact .same rfl rfl

/-- Settles O24: each instruction is exchanges, whose frames and toggles `Adds` counts together, or writes no frame and leaves
TOGGLE. -/
theorem toggleCountsFrames : Obligations.ToggleCountsFrames := by
  intro s t i h off notEncode notStart
  apply TogglesPerFrame.eventsSince
  cases i
  case encode opc params => exact absurd rfl (notEncode opc params)
  case sessionStart tp => exact absurd rfl (notStart tp)
  case nop => cases h; exact (TogglesPerFrame.same (t := finishOk (accept s)) rfl rfl).of_body
  case decode quiet raw => cases h; exact (decodeBody_togglesPerFrame quiet raw _).of_body
  case transceive ign opc params tmo => cases h; exact (transceiveBody_togglesPerFrame (s := accept s) off ..).of_body
  case sendBuffer ext bsize data =>
    obtain ⟨u, body, rfl⟩ := runCommand_eq_next_iff.1 h
    exact ((sendBufferBody_adds body).togglesPerFrame off).of_body
  case sessionEnd => cases h; exact (sessionEndBody_togglesPerFrame _).of_body
  case cfgWrite addr v => cases h; exact (cfgWriteBody_togglesPerFrame addr v _).of_body
  case cfgRead addr => cases h; exact (cfgReadBody_togglesPerFrame addr _).of_body
  case statusRead => cases h; exact (TogglesPerFrame.same (t := statusReadBody (accept s)) rfl rfl).of_body
  all_goals exact wire_togglesPerFrame rfl h off

end Sys2Proof.Machine
end

