-- ==== Sys2Proof/Proofs/Transceiver.lean ====
section
/-! TRANSCEIVE as a whole next state (41_transceiver.md): how an exchange ends by what its read returns, the reconnect, and the
transport events of one exchange. -/

namespace Sys2Proof.Machine

/-! ## TRANSCEIVE from its exchange -/

/-- TRANSCEIVE is one exchange, its result as the command's, and the response (R214). -/
theorem exec_transceive {ign : Bool} {opc : Byte} {params : Bytes} {tmo : Half} {s u : State} {events : List Event}
    (exchange : transceive opc params tmo ign (accept s) = u) (trace : u.trace = s.trace ++ events) :
    exec (.transceive ign opc params tmo) s = .next
      { s.ended events { s.res with ok := u.tx.ok, err := u.tx.err, payload := u.tx.payload } with
        toggle := u.toggle, linkOpen := u.linkOpen, tx := u.tx, link := u.link } := by
  subst exchange
  simp only [exec, execTransceive, command, transceiveBody, Host.Outcome.next.injEq]
  rw [respond_eq_ended (s := s) (events := events) (by simpa using trace)]
  simp [State.ended]

/-- Settles O27: a closed link fails the exchange before anything but its timeout and its flag is recorded. -/
theorem transceiveOnClosedLink : Obligations.TransceiveOnClosedLink := by
  intro s ign opc params tmo closed
  exact exec_transceive (events := []) (transceive_closed (s := accept s) closed opc params tmo ign)
    (List.append_nil _).symm

/-- Settles O28: EncodeFrame's first failing check is the exchange's error. -/
theorem transceiveEncodeError : Obligations.TransceiveEncodeError := by
  intro s ign opc params tmo opened refused
  exact exec_transceive (events := [])
    (transceive_refused (s := accept s) opened (encodeCheck_of_not_framable refused) tmo ign) (List.append_nil _).symm

/-! ## How an exchange ends, by its read -/

/-! The end of an exchange overwrites the TX_STATE before it. -/

@[simp] theorem failExchange_enterTx (e : ErrCode) (st : TxState) (s : State) :
    failExchange e (enterTx st s) = failExchange e s := rfl

@[simp] theorem succExchange_enterTx (p : Option Bytes) (st : TxState) (s : State) :
    succExchange p (enterTx st s) = succExchange p s := rfl

section
variable {s : State} {ign : Bool} {opc : Byte} {params : Bytes} {a : ReadAnswer} {w : List Bool} {r : List ReadAnswer}

/-- TRANSCEIVE's state where the checks on the read succeed (R201). -/
theorem exec_transceive_of_succ {p : Option Bytes} (link : s.linkGives a w r)
    (ok : framable s.build opc params.length = true) (tmo : Half)
    (checks : ∀ v : State, v.cfg = s.cfg → v.tx.opcode = sentOpcode s.toggle opc →
      checkRead (wireFrame s.cfg.fast (sentOpcode s.toggle opc) params) ign a v = succExchange p v) :
    exec (.transceive ign opc params tmo) s = .next (s.replied ign opc params tmo a w r p) := by
  rw [exec_transceive ((transceive_reads (s := accept s) link ok tmo ign).trans (checks _ rfl rfl)) rfl]
  obtain ⟨-, writes, reads⟩ := link
  simp [State.replied, State.exchanged, State.ended, readState, writes, reads]

/-- TRANSCEIVE's state where a check on the read fails, without a reconnect (R201). -/
theorem exec_transceive_of_fail {e : ErrCode} (link : s.linkGives a w r)
    (ok : framable s.build opc params.length = true) (tmo : Half)
    (checks : ∀ v : State, v.cfg = s.cfg → v.tx.opcode = sentOpcode s.toggle opc →
      checkRead (wireFrame s.cfg.fast (sentOpcode s.toggle opc) params) ign a v = failExchange e v) :
    exec (.transceive ign opc params tmo) s = .next (s.exchanged ign opc params tmo a w r .failed false e none) := by
  rw [exec_transceive ((transceive_reads (s := accept s) link ok tmo ign).trans (checks _ rfl rfl)) rfl]
  obtain ⟨-, writes, reads⟩ := link
  simp [State.exchanged, State.ended, readState, writes, reads]

end

/-- Settles O26: with the ignore flag the read's answer is not looked at. -/
theorem transceiveIgnoringReply : Obligations.TransceiveIgnoringReply :=
  fun _ _ _ tmo _ _ _ ok link => exec_transceive_of_succ link ok tmo fun _ _ _ => rfl

/-- Settles O31: no echo is found, so the exchange ends at the echo step. -/
theorem transceiveNoEcho : Obligations.TransceiveNoEcho := by
  intro s opc params rx tmo w r ok link notExact notRelaxed
  refine exec_transceive_of_fail link ok tmo fun v cfg _ => ?_
  have missing : stripEcho v.cfg.glitchyEn (wireFrame s.cfg.fast (sentOpcode s.toggle opc) params) rx = none :=
    stripEcho_none notExact (by rwa [cfg])
  simp [checkRead, checkEcho, missing]

/-! ## The reply steps (R206 to R208) -/

theorem checkReply_of_no_preamble {rem : Bytes} {s : State} (h : afterPreamble s.cfg.fast rem = none) :
    checkReply rem s = failExchange .missingPreamble s := by
  unfold checkReply
  exact if_neg (afterPreamble_none_iff.1 h)

/-- Behind a preamble the reply is judged by what the decoder answers. -/
theorem checkReply_of_preamble {rem body : Bytes} {s : State} (h : afterPreamble s.cfg.fast rem = some body) :
    checkReply rem s =
      if (decodeFrame s.cfg.fast rem).1 then
        if replyOpcodeMatches s.tx.opcode (decodeFrame s.cfg.fast rem).2 then
          succExchange (some (decodeFrame s.cfg.fast rem).2) s
        else failExchange .opcodeMismatch s
      else failExchange .decodeError s := by
  have preambled : rem.take (preamble s.cfg.fast).length = preamble s.cfg.fast := by
    by_contra missing
    simp [afterPreamble_none_iff.2 missing] at h
  unfold checkReply
  dsimp only
  rw [if_pos preambled]
  split <;> rename_i e <;> simp [e]

theorem checkReply_of_no_payload {rem body : Bytes} {s : State} (h : afterPreamble s.cfg.fast rem = some body)
    (bad : ∀ p, body ≠ bodyOf s.cfg.fast p) : checkReply rem s = failExchange .decodeError s := by
  have invalid : decodeFrame s.cfg.fast rem = (false, (afterPreamble s.cfg.fast rem).getD rem) :=
    decodeFrame_invalid fun p e => bad p (Option.some.inj (h.symm.trans e))
  rw [checkReply_of_preamble h, invalid]
  rfl

theorem checkReply_of_payload {rem p : Bytes} {s : State} (h : afterPreamble s.cfg.fast rem = some (bodyOf s.cfg.fast p)) :
    checkReply rem s =
      if p.head? = some (~~~s.tx.opcode) then succExchange (some p) s else failExchange .opcodeMismatch s := by
  rw [checkReply_of_preamble h, decodeFrame_valid_iff.2 h, if_pos rfl]
  simp only [replyOpcodeMatches_iff]

/-- The rest of a reply once its echo is removed, exactly or after one byte (R205). -/
theorem checkRead_of_echo {f rx rem : Bytes} {s : State} (ne : f ≠ [])
    (echo : rx = f ++ rem ∨ (s.cfg.glitchyEn = true ∧ ¬f <+: rx ∧ rx.drop 1 = f ++ rem)) :
    checkRead f false ⟨rx, false⟩ s = checkReply rem (enterTx .awaitReply s) := by
  have stripped : stripEcho s.cfg.glitchyEn f rx = some rem := by
    rcases echo with rfl | ⟨relaxed, notExact, late⟩
    · exact stripEcho_exact _ f rem
    · rw [relaxed]
      exact stripEcho_relaxed notExact late ne
  simp [checkRead, checkEcho, stripped]

/-- Settles O32: the four ends of the reply steps, by what is left of the read once the echo is removed. -/
theorem transceiveReplyChecks : Obligations.TransceiveReplyChecks := by
  intro s opc params rx rem tmo w r op f ok link echo
  have reply : ∀ v : State, v.cfg = s.cfg →
      checkRead f false ⟨rx, false⟩ v = checkReply rem (enterTx .awaitReply v) := fun v cfg =>
    checkRead_of_echo (wireFrame_ne_nil _ _ _) (by rwa [cfg])
  refine ⟨fun noPreamble => ?preamble, fun body preambled noPayload => ?decode, fun p payload mismatch => ?opcode,
    fun p payload answer => ?success⟩
  case preamble =>
    refine exec_transceive_of_fail link ok tmo fun v cfg _ => (reply v cfg).trans ?_
    rw [checkReply_of_no_preamble (by simpa [cfg] using noPreamble), failExchange_enterTx]
  case decode =>
    refine exec_transceive_of_fail link ok tmo fun v cfg _ => (reply v cfg).trans ?_
    rw [checkReply_of_no_payload (by simpa [cfg] using preambled) (by simpa [cfg] using noPayload), failExchange_enterTx]
  case opcode =>
    refine exec_transceive_of_fail link ok tmo fun v cfg sent => (reply v cfg).trans ?_
    rw [checkReply_of_payload (p := p) (by simpa [cfg] using payload), enterTx_tx, sent, if_neg mismatch,
      failExchange_enterTx]
  case success =>
    refine exec_transceive_of_succ link ok tmo fun v cfg sent => (reply v cfg).trans ?_
    rw [checkReply_of_payload (p := p) (by simpa [cfg] using payload), enterTx_tx, sent, if_pos answer,
      succExchange_enterTx]

/-- A regular frame does not start with a byte and then itself: its second byte is not its first. -/
theorem not_wireFrame_isPrefix_cons (op noise : Byte) (params rest : Bytes) :
    ¬wireFrame false op params <+: noise :: (wireFrame false op params ++ rest) := by
  simp only [wireFrame, regularFrame, Bool.false_eq_true, if_false, List.cons_append, List.cons_prefix_cons]
  rintro ⟨-, second, -⟩
  exact absurd second (by decide)

/-- Settles O25: the reply is the frame of a payload that starts with the complement of the opcode sent, so it passes the
reply steps of O32, the echo found exactly or after the noise byte. -/
theorem transceiveRoundTrip : Obligations.TransceiveRoundTrip := by
  intro s opc params d tmo w r ok
  have passes : ∀ rx : Bytes, s.linkGives ⟨rx, false⟩ w r →
      rx = (s.echoAndReply opc params d).bytes ∨ (s.cfg.glitchyEn = true ∧
        ¬wireFrame s.cfg.fast (sentOpcode s.toggle opc) params <+: rx ∧ rx.drop 1 = (s.echoAndReply opc params d).bytes) →
      exec (.transceive false opc params tmo) s =
        .next (s.replied false opc params tmo ⟨rx, false⟩ w r (some (s.replyPayload opc d))) := by
    intro rx link echo
    obtain ⟨-, -, -, success⟩ := transceiveReplyChecks s opc params rx _ tmo w r ok link echo
    exact success _ (afterPreamble_wireFrame ..) rfl
  refine ⟨fun link => passes _ link (.inl rfl),
    fun noise regular relaxed link => passes _ link (.inr ⟨relaxed, ?_, rfl⟩)⟩
  rw [State.echoAndReply, regular]
  exact not_wireFrame_isPrefix_cons _ _ _ _

/-! ## The reconnect (R211) -/

/-- A reconnect with saved parameters closes the link and opens it again. -/
theorem reconnect_of_savedParams {s : State} {p : Bytes} (h : s.savedParams = some p) :
    reconnect s = { s with
      toggle := s.toggle && !s.cfg.resetOnReconnect, linkOpen := openAnswer (closeLink s)
      tx := { s.tx with state := .reconnect }, trace := s.trace ++ [.closed, .opened p (openAnswer (closeLink s))]
      link := { s.link with opens := s.link.opens.tail } } := by
  have opens : openSaved (closeLink (enterTx .reconnect s)) = openLink p (closeLink (enterTx .reconnect s)) := by
    simp [openSaved, h]
  apply State.eq_of_fields
  case h2 => exact reconnect_toggle s
  all_goals
    rw [reconnect, opens]
    unfold reconnectToggle
    split <;> simp [openAnswer]

/-- A reconnect without saved parameters closes the link and opens none. -/
theorem reconnect_of_no_savedParams {s : State} (h : s.savedParams = none) :
    reconnect s = { s with
      toggle := s.toggle && !s.cfg.resetOnReconnect, linkOpen := false
      tx := { s.tx with state := .reconnect }, trace := s.trace ++ [.closed] } := by
  have stays : openSaved (closeLink (enterTx .reconnect s)) = closeLink (enterTx .reconnect s) := by
    simp [openSaved, h]
  apply State.eq_of_fields
  case h2 => exact reconnect_toggle s
  all_goals
    rw [reconnect, stays]
    unfold reconnectToggle
    split <;> simp

/-- TRANSCEIVE's state where the exchange ends with a reconnect: CHANNEL_ERROR, the link closed and, where parameters are
saved, opened again (R210 to R212). -/
theorem exec_transceive_of_reconnect {ign : Bool} {opc : Byte} {params : Bytes} {tmo : Half} {s v : State}
    {events : List Event}
    (exchange : transceive opc params tmo ign (accept s) = failExchange .channelError (reconnect v))
    (trace : v.trace = s.trace ++ events) :
    let res : Res := { s.res.failed .channelError with payload := none }
    let tx : Tx := { v.tx with state := .failed, ok := false, err := .channelError, payload := none }
    (∀ p ok later, v.savedParams = some p → v.link.opens = ok :: later →
      exec (.transceive ign opc params tmo) s = .next
        { s.ended (events ++ [.closed, .opened p ok]) res with
          toggle := v.toggle && !v.cfg.resetOnReconnect, linkOpen := ok, tx := tx
          link := { v.link with opens := later } }) ∧
    (v.savedParams = none →
      exec (.transceive ign opc params tmo) s = .next
        { s.ended (events ++ [.closed]) res with
          toggle := v.toggle && !v.cfg.resetOnReconnect, linkOpen := false, tx := tx, link := v.link }) := by
  refine ⟨fun p ok later saved opens => ?saved, fun unsaved => ?unsaved⟩
  case saved =>
    have answer : openAnswer (closeLink v) = ok := by simp [openAnswer, opens]
    rw [reconnect_of_savedParams saved, answer, opens] at exchange
    exact exec_transceive exchange (by simp [trace])
  case unsaved =>
    rw [reconnect_of_no_savedParams unsaved] at exchange
    exact exec_transceive exchange (by simp [trace])

/-- Settles O29: the exchange is one write that fails, one reconnect and CHANNEL_ERROR, whatever the ignore flag. -/
theorem transceiveWriteFails : Obligations.TransceiveWriteFails := by
  intro s ign opc params tmo w opened ok writes op f res tx
  have fails : writeAnswer (exchangeSending f op tmo ign (accept s)) = false := by simp [writeAnswer, writes]
  have exchange : transceive opc params tmo ign (accept s) =
      failExchange .channelError (reconnect (note (.wrote f false) (exchangeSending f op tmo ign (accept s)))) := by
    rw [transceive_writes (s := accept s) opened ok]
    simp only [writeFrame, txWrite, fails, if_neg Bool.false_ne_true, accept_cfg, accept_toggle, op, f]
  obtain rfl : s.link.writes.tail = w := by rw [writes]; rfl
  exact exec_transceive_of_reconnect (events := [.wrote f false]) exchange rfl

/-- Settles O30: the channel check comes before the echo check, so the bytes of the read are not looked at. -/
theorem transceiveChannelError : Obligations.TransceiveChannelError := by
  intro s opc params rx tmo w r ok link op f events res tx
  have exchange : transceive opc params tmo false (accept s) =
      failExchange .channelError (reconnect (readState f op tmo false ⟨rx, true⟩ (accept s))) :=
    transceive_reads (s := accept s) link ok tmo false
  obtain ⟨-, writes, reads⟩ := link
  obtain rfl : s.link.writes.tail = w := by rw [writes]; rfl
  obtain rfl : s.link.reads.tail = r := by rw [reads]; rfl
  exact exec_transceive_of_reconnect (events := [.wrote f true, .delayed tmo.toNat, .received tmo.toNat ⟨rx, true⟩])
    exchange rfl

/-! ## The transport events of an exchange (R202) -/

/-- The events of an exchange up to its read, or to its write where that fails. -/
def IsWriteAndRead (f : Bytes) (tmo : Half) (es : List Event) : Prop :=
  es = [.wrote f false] ∨ ∃ a, es = [.wrote f true, .delayed tmo.toNat, .received tmo.toNat a]

/-- The events of at most one reconnect. -/
def IsReconnectOrNone (es : List Event) : Prop := es = [] ∨ es = [.closed] ∨ ∃ p ok, es = [.closed, .opened p ok]

theorem reconnect_events (s : State) : ∃ es, IsReconnectOrNone es ∧ (reconnect s).trace = s.trace ++ es := by
  cases saved : s.savedParams with
  | none => exact ⟨_, .inr (.inl rfl), by rw [reconnect_of_no_savedParams saved]⟩
  | some p => exact ⟨_, .inr (.inr ⟨p, _, rfl⟩), by rw [reconnect_of_savedParams saved]⟩

theorem checkRead_events (frame : Bytes) (ign : Bool) (a : ReadAnswer) (s : State) :
    ∃ es, IsReconnectOrNone es ∧ (checkRead frame ign a s).trace = s.trace ++ es := by
  unfold checkRead
  split
  · exact ⟨[], .inl rfl, by simp⟩
  · split
    · exact reconnect_events s
    · exact ⟨[], .inl rfl, by simp⟩

theorem awaitAnswer_events (f : Bytes) (tmo : Half) (ign : Bool) (s : State) :
    ∃ a es, IsReconnectOrNone es ∧
      (awaitAnswer f tmo ign s).trace = s.trace ++ [.delayed tmo.toNat, .received tmo.toNat a] ++ es := by
  obtain ⟨es, reconnects, trace⟩ := checkRead_events f ign (readAnswer (enterTx .awaitEcho (delay tmo.toNat s)))
    (rxRead tmo (enterTx .awaitEcho (delay tmo.toNat s)))
  refine ⟨readAnswer (enterTx .awaitEcho (delay tmo.toNat s)), es, reconnects, trace.trans ?_⟩
  simp

theorem writeFrame_events (f : Bytes) (tmo : Half) (ign : Bool) (s : State) :
    ∃ head tail, IsWriteAndRead f tmo head ∧ IsReconnectOrNone tail ∧
      (writeFrame f tmo ign s).trace = s.trace ++ (head ++ tail) := by
  unfold writeFrame
  split
  case isTrue ok =>
    obtain ⟨a, tail, reconnects, trace⟩ := awaitAnswer_events f tmo ign (txWrite f s)
    exact ⟨_, tail, .inr ⟨a, rfl⟩, reconnects, trace.trans (by simp [ok])⟩
  case isFalse fails =>
    obtain ⟨tail, reconnects, trace⟩ := reconnect_events (txWrite f s)
    exact ⟨_, tail, .inl rfl, reconnects, trace.trans (by simp [fails])⟩

theorem IsWriteAndRead.ne_nil {f : Bytes} {tmo : Half} {es : List Event} (h : IsWriteAndRead f tmo es) : es ≠ [] := by
  rcases h with rfl | ⟨a, rfl⟩ <;> simp

/-- An exchange makes no transport event where the link check or the encode step fails, and otherwise those of its write. -/
theorem transceive_events (opc : Byte) (params : Bytes) (tmo : Half) (ign : Bool) (s : State) :
    ∃ es, (transceive opc params tmo ign s).trace = s.trace ++ es ∧
      (es = [] ↔ ¬(s.linkOpen = true ∧ framable s.build opc params.length = true)) ∧
      (es = [] ∨ ∃ f head tail, es = head ++ tail ∧ IsWriteAndRead f tmo head ∧ IsReconnectOrNone tail) := by
  by_cases sends : s.linkOpen = true ∧ framable s.build opc params.length = true
  · obtain ⟨opened, ok⟩ := sends
    rw [transceive_writes opened ok]
    obtain ⟨head, tail, writes, reconnects, trace⟩ := writeFrame_events _ tmo ign _
    refine ⟨head ++ tail, trace, ?_, .inr ⟨_, head, tail, rfl, writes, reconnects⟩⟩
    simp [opened, ok, writes.ne_nil]
  · refine ⟨[], ?_, by simp [sends], .inl rfl⟩
    cases opened : s.linkOpen with
    | false => rw [transceive_closed opened]; simp [exchangeStart]
    | true =>
      have refused : framable s.build opc params.length = false := by simpa [opened] using sends
      rw [transceive_refused opened (encodeCheck_of_not_framable refused)]
      simp [exchangeStart]

/-- Settles O33: TRANSCEIVE's events are its exchange's and then the response. -/
theorem transceiveEvents : Obligations.TransceiveEvents := by
  intro s t ign opc params tmo h
  obtain ⟨es, trace, none_iff, order⟩ := transceive_events opc params tmo ign (accept s)
  refine ⟨es, ?_, none_iff, order⟩
  rw [exec_transceive rfl trace, Host.Outcome.next.injEq] at h
  subst h
  rfl

end Sys2Proof.Machine
end

