-- ==== Sys2Proof/Proofs/Segmentation.lean ====
section
/-! Segmentation (42_block_transfer.md R242 to R244, R255): the blocks cut the buffer into consecutive pieces, and the
engine's block `k` is entry `k - 1` of the list of blocks of Safety.lean. -/

namespace Sys2Proof.Machine

/-! ## The number of blocks -/

/-- The last block begins before the end of the buffer, and ends no sooner. -/
theorem numBlocks_bounds {len bsize : Nat} (nonempty : 1 ≤ len) (b : 1 ≤ bsize) :
    1 ≤ numBlocks len bsize ∧ (numBlocks len bsize - 1) * bsize < len ∧ len ≤ numBlocks len bsize * bsize := by
  have one : 1 ≤ numBlocks len bsize := (Nat.le_div_iff_mul_le b).2 (by omega)
  have above : len + bsize - 1 < (numBlocks len bsize + 1) * bsize := Nat.lt_mul_of_div_lt (Nat.lt_succ_self _) b
  rw [Nat.add_mul, Nat.one_mul] at above
  exact ⟨one, blockOffset_lt b one (Nat.le_refl _), by omega⟩

/-! ## The blocks as pieces of the buffer -/

/-- The bytes of block `j + 1`. -/
theorem take_blockLength (data : Bytes) (bsize j : Nat) :
    (data.drop (blockOffset bsize (j + 1))).take (blockLength data.length bsize (j + 1)) =
      (data.drop (j * bsize)).take bsize := by
  simp only [blockLength, blockOffset, Nat.add_sub_cancel]
  rw [List.take_eq_take_iff, List.length_drop]
  omega

/-- The first `m` blocks are the first `m * bsize` bytes. -/
theorem flatMap_blocks_eq_take (data : Bytes) (bsize m : Nat) :
    ((List.range m).flatMap fun j => (data.drop (j * bsize)).take bsize) = data.take (m * bsize) := by
  induction m with
  | zero => simp
  | succ m ih =>
    rw [List.range_succ, List.flatMap_append, ih, List.flatMap_singleton, Nat.add_mul, Nat.one_mul, List.take_add]

theorem length_block (data : Bytes) (bsize j : Nat) :
    ((data.drop (j * bsize)).take bsize).length = blockLength data.length bsize (j + 1) := by
  simp [blockLength, blockOffset]

theorem blockLength_of_full {len bsize k : Nat} (k1 : 1 ≤ k) (full : k * bsize ≤ len) :
    blockLength len bsize k = bsize := by
  obtain ⟨j, rfl⟩ := Nat.exists_eq_add_of_le' k1
  rw [Nat.add_mul, Nat.one_mul] at full
  simp only [blockLength, blockOffset, Nat.add_sub_cancel]
  omega

/-! ## The wire indices -/

theorem blockIndex_eq (oneToN : Bool) (n k : Nat) : blockIndex oneToN n k = BitVec.ofNat 16 (wireIndex oneToN n k) := by
  unfold blockIndex wireIndex
  cases oneToN <;> by_cases last : k = n <;> simp [last]

/-- Where the start check on the number of blocks passes, every wire index fits its 16 bits. -/
theorem toNat_blockIndex {oneToN : Bool} {n k : Nat} (le : k ≤ n) (few : n ≤ if oneToN then 65535 else 65536) :
    (blockIndex oneToN n k).toNat = wireIndex oneToN n k := by
  have fits : wireIndex oneToN n k < 2 ^ 16 := by
    unfold wireIndex
    split <;> split at few <;> simp_all <;> omega
  rw [blockIndex_eq, BitVec.toNat_ofNat, Nat.mod_eq_of_lt fits]

/-- Settles O34: the blocks are consecutive pieces of the buffer, all but the last of them whole, so they and their lengths
add up to it; and with as many blocks as the start checks admit no wire index wraps. -/
theorem segmentationLaw : Obligations.SegmentationLaw := by
  intro data bsize nonempty b
  obtain ⟨one, begins, ends⟩ := numBlocks_bounds nonempty b
  dsimp only
  generalize numBlocks data.length bsize = n at one begins ends ⊢
  have pieces : ((List.range n).flatMap fun j => (data.drop (j * bsize)).take bsize) = data := by
    rw [flatMap_blocks_eq_take, List.take_of_length_le ends]
  refine ⟨begins, ends, ?sum, ?full, ?last, Nat.min_le_left _ _, ?bytes, ?lastIsZero, ?oneToN⟩
  case sum =>
    have lengths := congrArg List.length pieces
    simpa only [List.length_flatMap, length_block] using lengths
  case full =>
    intro k k1 kn
    exact blockLength_of_full k1 (Nat.le_of_lt (Nat.lt_of_le_of_lt (Nat.mul_le_mul_right _ (by omega)) begins))
  case last =>
    have rest : 1 ≤ data.length - (n - 1) * bsize := by omega
    exact Nat.le_min.2 ⟨b, rest⟩
  case bytes =>
    simpa only [take_blockLength] using pieces
  case lastIsZero =>
    intro few k k1 kn
    have index := toNat_blockIndex (oneToN := false) kn few
    refine ⟨⟨fun zero => ?_, fun last => ?_⟩, fun before => ?_⟩
    · by_contra other
      simp [zero, wireIndex, other] at index
      omega
    · simp [blockIndex, last]
    · simpa [wireIndex, Nat.ne_of_lt before] using index
  case oneToN =>
    intro few k k1 kn
    simpa [wireIndex] using toNat_blockIndex (oneToN := true) kn few

/-! ## The list of blocks of a transfer (R243, R244) -/

theorem blockCount_eq (bsize : Half) (data : Bytes) : blockCount bsize data = numBlocks data.length bsize.toNat := rfl

theorem blockHeader_ofNat (v : Nat) (d : Bytes) : blockHeader (BitVec.ofNat 16 v) d = headerBytes v d := by
  simp [blockHeader, headerBytes, halfBytes, lo_ofNat, hi_ofNat, checksum_eq_byteSum]

@[simp] theorem length_blockList (oneToN : Bool) (bsize : Half) (data : Bytes) :
    (blockList oneToN bsize data).length = blockCount bsize data := by
  simp [blockList]

/-- The engine reads block `j + 1` of a loaded buffer as entry `j` of the list. -/
theorem Loaded.block_eq_getElem {s : State} {data p : Bytes} {bsize : Half} {j : Nat} (h : Loaded data bsize s)
    (b : bsize ≠ 0) (entry : (blockList s.cfg.oneToN bsize data)[j]? = some p) :
    Machine.block (j + 1) s = some (blockIndex s.cfg.oneToN (blockCount bsize data) (j + 1), p) := by
  obtain ⟨inside, rfl⟩ := List.getElem?_eq_some_iff.1 entry
  rw [length_blockList] at inside
  rw [h.block b (Nat.succ_pos j) inside, ← blockCount_eq]
  simp only [Nat.succ_eq_add_one, Nat.add_sub_cancel, blockIndex_eq, blockHeader_ofNat, blockList, List.getElem_map,
    List.getElem_range]

theorem withinMaxParams_mono {b : Build} {m n : Nat} (le : m ≤ n) (h : withinMaxParams b n = true) :
    withinMaxParams b m = true := by
  unfold withinMaxParams at h ⊢
  split <;> simp_all
  omega

/-- Every block of a transfer that starts can be framed (R241). -/
theorem framable_of_mem_blockList {s : State} {bsize : Half} {data p : Bytes} {oneToN : Bool}
    (started : s.transferable bsize data) (mem : p ∈ blockList oneToN bsize data) :
    framable s.build s.build.opcCont p.length = true := by
  obtain ⟨-, -, -, within, -⟩ := started
  obtain ⟨j, -, rfl⟩ := List.mem_map.1 mem
  have short : (headerBytes (wireIndex oneToN (blockCount bsize data) (j + 1)) (blockData bsize data j)).length ≤
      bsize.toNat + 5 := by
    simp [headerBytes, blockData]
  simp [framable, withinMaxParams_mono short within]

end Sys2Proof.Machine
end

