-- ==== Sys2Proof/Proofs/TransferEnds.lean ====
section
/-! SEND_BUFFER from its start checks to its end, whatever the LINK answers (42_block_transfer.md R240, R241, R247, R251,
R252): the refusals, the outcome of an attempt, and one induction over the blocks for how a transfer ends and what it
reports. -/

namespace Sys2Proof.Machine

/-! ## SEND_BUFFER from its blocks -/

section
variable {s : State} {bsize : Half} {data : Bytes}

/-- SEND_BUFFER of a transfer that starts is its blocks and then the response. -/
theorem exec_sendBuffer_next_iff {t : State} (started : s.transferable bsize data) (ext : Bool) :
    exec (.sendBuffer ext bsize data) s = .next t ↔
      ∃ u, sendBlocks (transferTimeout ext s.cfg) (blockCount bsize data) 1 (transferStart ext bsize data (accept s)) =
        .next u ∧ t = respond u := by
  have body := sendBufferBody_of_transferable (s := accept s) started ext
  rw [← blockCount_eq, accept_cfg] at body
  simp only [exec, execSendBuffer, runCommand_eq_next_iff, body]

/-- SEND_BUFFER where its body refuses with the error `e`: the result registers and the response. -/
theorem exec_sendBuffer_of_refused {ext : Bool} {e : ErrCode}
    (refused : sendBufferBody ext bsize data (accept s) = .next (refuseTransfer e (accept s))) :
    exec (.sendBuffer ext bsize data) s = .next (s.ended [] { s.res.failed e with payload := none }) := by
  have ended : exec (.sendBuffer ext bsize data) s = .next (respond (refuseTransfer e (accept s))) :=
    runCommand_eq_next_iff.2 ⟨_, refused, rfl⟩
  rw [ended, Host.Outcome.next.injEq]
  exact respond_eq_ended (s := s) (events := []) (by simp)

/-- Settles O36: a closed link is found before the operands are checked, and the check fails exactly where the transfer may
not start. -/
theorem sendBufferRefused : Obligations.SendBufferRefused := by
  intro s ext bsize data
  refine ⟨fun closed => exec_sendBuffer_of_refused (sendBufferBody_closed (s := accept s) closed ext bsize data),
    fun link out => exec_sendBuffer_of_refused (sendBufferBody_refused (s := accept s) link ?_)⟩
  exact Bool.eq_true_of_not_eq_false (mt (transferOutOfRange_iff (s := accept s) bsize data link).1 out)

end

/-! ## The outcome of an attempt -/

theorem classifyAttempt_of_failed {s : State} (failed : s.tx.ok = false) : classifyAttempt s = .transceiveFailed := by
  simp [classifyAttempt, failed]

/-- A reply is classified by the byte after its opcode, where there is one (R246). -/
theorem classifyAttempt_of_reply {s : State} {b : Byte} {d : Bytes} (ok : s.tx.ok = true)
    (payload : s.tx.payload = some (b :: d)) : classifyAttempt s = classifyStatus s.build d.head? := by
  cases d <;> simp [classifyAttempt, ok, payload, statusByte]

/-- A reply with no status byte, or with one other than `ST_OKAY`, is neither an acknowledgement nor a failed exchange. -/
theorem classifyStatus_of_ne_okay {b : Build} {st : Option Byte} (ne : st ≠ some b.stOkay) :
    classifyStatus b st ≠ .okay ∧ classifyStatus b st ≠ .transceiveFailed := by
  cases st with
  | none => simp [classifyStatus]
  | some st =>
    have other : st ≠ b.stOkay := fun e => ne (congrArg some e)
    simp only [classifyStatus, if_neg other]
    constructor <;> (repeat' split) <;> simp

/-- Settles O43: the status byte is compared with the constants in the order of R245. -/
theorem attemptOutcomes : Obligations.AttemptOutcomes := by
  intro s
  refine ⟨classifyAttempt_of_failed, fun b ok payload => classifyAttempt_of_reply ok payload, fun b st more ok payload => ?_⟩
  simp only [classifyAttempt_of_reply ok payload, List.head?_cons, classifyStatus, List.mem_cons, List.not_mem_nil, or_false,
    not_or]
  refine ⟨fun okay => if_pos okay, fun n block => ?_, fun ⟨n, n'⟩ fw => ?_, fun ⟨n, n', n''⟩ inactive => ?_,
    fun ⟨n, n', n'', n'''⟩ => ?_⟩
  · rw [if_neg n, if_pos block]
  · rw [if_neg n, if_neg n', if_pos fw]
  · rw [if_neg n, if_neg n', if_neg n'', if_pos inactive]
  · rw [if_neg n, if_neg n', if_neg n'', if_neg n''']

/-! ## Inside the loop of one block -/

/-- `v` comes after `s` inside the loop of one block, before that loop ends: the block's registers and the elapsed time are as
they were, and nothing is reported. -/
structure OnBlock (s v : State) : Prop where
  keeps : TransferKeeps s v
  adds : ∃ frames, Adds frames [] s v
  ord : v.bt.ord = s.bt.ord
  index : v.bt.index = s.bt.index
  failIndex : v.bt.failIndex = s.bt.failIndex
  failOrd : v.bt.failOrd = s.bt.failOrd
  elapsed : v.bt.elapsed = s.bt.elapsed

theorem OnBlock.trans {a b c : State} (h : OnBlock a b) (g : OnBlock b c) : OnBlock a c where
  keeps := h.keeps.trans g.keeps
  adds := by
    obtain ⟨m, hm⟩ := h.adds
    obtain ⟨n, gn⟩ := g.adds
    exact ⟨m + n, hm.trans gn⟩
  ord := g.ord.trans h.ord
  index := g.index.trans h.index
  failIndex := g.failIndex.trans h.failIndex
  failOrd := g.failOrd.trans h.failOrd
  elapsed := g.elapsed.trans h.elapsed

theorem attempt_onBlock (params : Bytes) (tmo : Half) (s : State) : OnBlock s (attempt params tmo s) := by
  obtain ⟨ord, index, -, failIndex, failOrd, elapsed⟩ := attempt_block params tmo s
  exact ⟨attempt_keeps params tmo s, ⟨_, attempt_adds params tmo s⟩, ord, index, failIndex, failOrd, elapsed⟩

theorem probe_onBlock (s : State) : OnBlock s (probe s) :=
  ⟨probe_keeps s, ⟨_, probe_adds s⟩, by simp, by simp, by simp, by simp, by simp⟩

theorem backoff_onBlock (s : State) : OnBlock s (backoff s) :=
  ⟨backoff_keeps s, ⟨_, backoff_adds s⟩, rfl, rfl, rfl, rfl, rfl⟩

/-- An attempt, with its probe where one is due, leaves the block and its retry counter. -/
theorem AttemptFailed.onBlock {params : Bytes} {tmo : Half} {s v : State} (h : AttemptFailed (attempt params tmo s) v) :
    OnBlock s v ∧ v.bt.retry = s.bt.retry := by
  have attempted := attempt_onBlock params tmo s
  obtain ⟨-, -, retry, -⟩ := attempt_block params tmo s
  rcases h with ⟨rfl, -⟩ | ⟨rfl, -⟩
  · exact ⟨attempted, retry⟩
  · exact ⟨attempted.trans (probe_onBlock _), by simp [retry]⟩

theorem toNat_backoff_retry {s : State} (room : s.bt.retry.toNat + 1 < 256) :
    (backoff s).bt.retry.toNat = s.bt.retry.toNat + 1 := by
  show (s.bt.retry + 1).toNat = _
  rw [BitVec.toNat_add]
  exact Nat.mod_eq_of_lt room

/-- The three ends of the loop of a block, from the state `v` before the acknowledgement or the abort (R247, R251, R252). -/
theorem blockLoop_ends {params : Bytes} {tmo : Half} {left : Nat} {s : State} (room : s.bt.retry.toNat + left < 256) :
    ∃ v, OnBlock s v ∧ v.bt.retry.toNat ≤ s.bt.retry.toNat + left ∧
      (blockLoop params tmo left s = .acknowledged (acknowledge v) ∨
        (blockLoop params tmo left s = .aborted (abort .blockTransferFailed v) ∧
          v.bt.retry.toNat = s.bt.retry.toNat + left) ∨
        (blockLoop params tmo left s = .aborted (abort .linkLost v) ∧ v.tx.ok = false ∧ v.tx.ignore = true)) := by
  induction left using Nat.strongRecOn generalizing s with
  | _ left ih =>
    have attempted := attempt_onBlock params tmo s
    obtain ⟨-, -, retry, -⟩ := attempt_block params tmo s
    rcases blockLoop_cases params tmo left s with
      ⟨-, acked⟩ | ⟨-, lost, aborted⟩ | ⟨v, failed, ⟨rfl, aborted⟩ | ⟨l, rfl, again⟩⟩
    · exact ⟨_, attempted, by simp [retry], .inl acked⟩
    · exact ⟨_, attempted.trans (probe_onBlock _), by simp [retry], .inr (.inr ⟨aborted, lost, transceive_ignore ..⟩)⟩
    · obtain ⟨onBlock, retry⟩ := failed.onBlock
      exact ⟨v, onBlock, by simp [retry], .inr (.inl ⟨aborted, by simp [retry]⟩)⟩
    · obtain ⟨onBlock, retry⟩ := failed.onBlock
      have counted : (backoff v).bt.retry.toNat + l = s.bt.retry.toNat + (l + 1) := by
        rw [toNat_backoff_retry (by rw [retry]; omega), retry]
        omega
      rw [again, ← counted]
      obtain ⟨w, later, bounded, ends⟩ := ih l (Nat.lt_succ_self l) (s := backoff v) (by omega)
      exact ⟨w, (onBlock.trans (backoff_onBlock v)).trans later, bounded, ends⟩

/-! ## What a transfer reports -/

theorem eventsSince_trans {a b c : State} (h : a.trace <+: b.trace) (g : b.trace <+: c.trace) :
    c.eventsSince a = b.eventsSince a ++ c.eventsSince b := by
  apply eventsSince_eq
  rw [← List.append_assoc, ← trace_eq_of_prefix h, ← trace_eq_of_prefix g]

/-- From `s` to `t` the blocks `k`, `k + 1`, ..., `m` of them, are reported in order as blocks of `n`, with elapsed times that
never fall (R247; 60_exceptions.md R394). -/
structure Reports (n k m : Nat) (s t : State) : Prop where
  trace : s.trace <+: t.trace
  numbers : (progressOf (t.eventsSince s)).map (fun e => (e.1.toNat, e.2.1.toNat)) = (List.range' k m).map fun j => (j, n)
  rising : risingFrom s.bt.elapsed ((progressOf (t.eventsSince s)).map fun e => e.2.2) = true

theorem Reports.nothing {n k frames : Nat} {s t : State} (h : Adds frames [] s t) : Reports n k 0 s t :=
  ⟨h.trace, by simp [h.progress], by simp [h.progress, risingFrom]⟩

theorem Reports.cons {n k m frames : Nat} {ord nblocks : BlockOrdinal} {s u t : State}
    (first : Adds frames [(ord, nblocks, u.bt.elapsed)] s u) (ordinal : ord.toNat = k) (count : nblocks.toNat = n)
    (later : s.bt.elapsed ≤ u.bt.elapsed) (rest : Reports n (k + 1) m u t) : Reports n k (m + 1) s t := by
  have all : progressOf (t.eventsSince s) = (ord, nblocks, u.bt.elapsed) :: progressOf (t.eventsSince u) := by
    rw [eventsSince_trans first.trace rest.trace, progressOf_append, first.progress]
    rfl
  refine ⟨first.trace.trans rest.trace, ?_, ?_⟩
  · simp [all, rest.numbers, ordinal, count, List.range'_succ]
  · simp [all, risingFrom, rest.rising, later]

/-! ## How the blocks of a transfer end -/

@[simp] theorem completeTransfer_res (s : State) : (completeTransfer s).res = { s.res.succeeded with payload := none } := rfl

@[simp] theorem abort_res (e : ErrCode) (s : State) : (abort e s).res = { s.res.failed e with payload := none } := rfl

theorem sendBlocks_of_acknowledged {tmo : Half} {n k : Nat} {s u : State} {idx : Half} {params : Bytes}
    (read : block k s = some (idx, params))
    (acked : blockLoop params tmo s.cfg.maxRetries.toNat (startBlock k idx s) = .acknowledged u) :
    sendBlocks tmo (n + 1) k s = sendBlocks tmo n (k + 1) u := by
  simp only [sendBlocks, read, acked]

theorem sendBlocks_of_aborted {tmo : Half} {n k : Nat} {s u : State} {idx : Half} {params : Bytes}
    (read : block k s = some (idx, params))
    (aborted : blockLoop params tmo s.cfg.maxRetries.toNat (startBlock k idx s) = .aborted u) :
    sendBlocks tmo (n + 1) k s = .next u := by
  simp only [sendBlocks, read, aborted]

/-- The transfer of DATA is under way and block `k` is next. -/
structure BeforeBlock (data : Bytes) (bsize : Half) (k : Nat) (s : State) : Prop where
  loaded : Loaded data bsize s
  ord : s.bt.ord.toNat + 1 = k
  retry : s.bt.retry ≤ s.cfg.maxRetries
  failIndex : s.bt.failIndex = 0
  failOrd : s.bt.failOrd = 0

/-- The transfer of `n` blocks is complete (R241, R247). -/
structure Completed (n : Nat) (t : State) : Prop where
  state : t.bt.state = .complete
  ok : t.res.ok = true
  err : t.res.err = .noErr
  ord : t.bt.ord.toNat = n
  failIndex : t.bt.failIndex = 0
  failOrd : t.bt.failOrd = 0

/-- The transfer of `n` blocks is aborted on block `k`, with all retries used or after a failed probe (R251, R252). -/
structure AbortedOn (n k : Nat) (t : State) : Prop where
  state : t.bt.state = .aborted
  ok : t.res.ok = false
  ord : t.bt.ord.toNat = k
  failOrd : t.bt.failOrd = t.bt.ord
  failIndex : t.bt.failIndex = t.bt.index
  index : t.bt.index = blockIndex t.cfg.oneToN n k
  cause : (t.res.err = .blockTransferFailed ∧ t.bt.retry = t.cfg.maxRetries) ∨
    (t.res.err = .linkLost ∧ t.tx.ok = false ∧ t.tx.ignore = true)

/-- A transfer of `n` blocks, `k` the next at `s`, ends at `t` after `m` acknowledged blocks. -/
structure EndsAfter (n k m : Nat) (s t : State) : Prop where
  payload : t.res.payload = none
  retry : t.bt.retry ≤ t.cfg.maxRetries
  reports : Reports n k m s t
  ends : (k + m = n + 1 ∧ Completed n t) ∨ (k + m ≤ n ∧ AbortedOn n (k + m) t)

section
variable {data : Bytes} {bsize : Half} {k : Nat} {s : State} {tmo : Half} {params : Bytes}

/-- One block of a transfer: it is acknowledged and reported, and the next block is due, or the transfer is aborted on it. -/
theorem BeforeBlock.blockLoop_ends {idx : Half} (h : BeforeBlock data bsize k s) (fits : k < 2 ^ 17)
    (index : idx = blockIndex s.cfg.oneToN (blockCount bsize data) k) (inside : k ≤ blockCount bsize data) :
    (∃ u frames, blockLoop params tmo s.cfg.maxRetries.toNat (startBlock k idx s) = .acknowledged u ∧
      BeforeBlock data bsize (k + 1) u ∧ s.bt.elapsed ≤ u.bt.elapsed ∧
      Adds frames [(u.bt.ord, u.bt.nblocks, u.bt.elapsed)] s u) ∨
    ∃ t, blockLoop params tmo s.cfg.maxRetries.toNat (startBlock k idx s) = .aborted t ∧
      EndsAfter (blockCount bsize data) k 0 s t := by
  have room : (startBlock k idx s).bt.retry.toNat + s.cfg.maxRetries.toNat < 256 := by
    simpa [startBlock] using s.cfg.maxRetries.isLt
  obtain ⟨v, onBlock, bounded, ends⟩ := Machine.blockLoop_ends (params := params) (tmo := tmo) room
  have keeps : TransferKeeps s v := (startBlock_keeps k idx s).trans onBlock.keeps
  obtain ⟨frames, adds⟩ := onBlock.adds
  have adds : Adds frames [] s v := by
    simpa using (Adds.same (s := s) (t := startBlock k idx s) rfl rfl rfl).trans adds
  have ord : v.bt.ord.toNat = k := by
    rw [onBlock.ord]
    exact Nat.mod_eq_of_lt fits
  have ofMax {r : Nat} : (startBlock k idx s).bt.retry.toNat + r = r := Nat.zero_add r
  rw [ofMax] at bounded ends
  have retry : v.bt.retry ≤ v.cfg.maxRetries := by rwa [keeps.cfg]
  have aborts {e : ErrCode} (cause : (e = .blockTransferFailed ∧ v.bt.retry.toNat = s.cfg.maxRetries.toNat) ∨
      (e = .linkLost ∧ v.tx.ok = false ∧ v.tx.ignore = true)) : EndsAfter (blockCount bsize data) k 0 s (abort e v) := by
    refine ⟨rfl, retry, .nothing (adds.trans (Adds.same (t := abort e v) rfl rfl rfl)),
      .inr ⟨inside, rfl, rfl, ord, rfl, rfl, ?_, ?_⟩⟩
    · show v.bt.index = blockIndex v.cfg.oneToN _ k
      rw [onBlock.index, keeps.cfg, ← index]
      rfl
    · rcases cause with ⟨rfl, used⟩ | ⟨rfl, lost⟩
      · refine .inl ⟨rfl, BitVec.eq_of_toNat_eq ?_⟩
        show v.bt.retry.toNat = v.cfg.maxRetries.toNat
        rw [used, keeps.cfg]
      · exact .inr ⟨rfl, lost⟩
  rcases ends with acked | ⟨aborted, used⟩ | ⟨aborted, lost⟩
  · refine .inl ⟨acknowledge v, _, acked, ⟨h.loaded.keep (keeps.trans (acknowledge_keeps v)), ?_, retry, ?_, ?_⟩, ?_,
      adds.trans (acknowledge_adds v)⟩
    · exact congrArg (· + 1) ord
    · exact onBlock.failIndex.trans h.failIndex
    · exact onBlock.failOrd.trans h.failOrd
    · have same : v.bt.elapsed = s.bt.elapsed := onBlock.elapsed
      exact same ▸ acknowledge_elapsed v
  · exact .inr ⟨_, aborted, aborts (.inl ⟨rfl, used⟩)⟩
  · exact .inr ⟨_, aborted, aborts (.inr ⟨rfl, lost⟩)⟩

/-- The blocks of a transfer, whatever the LINK answers: some are acknowledged and reported in order, then the transfer is
complete or aborted on the next. -/
theorem BeforeBlock.sendBlocks_ends {n : Nat} {t : State} (h : BeforeBlock data bsize k s) (b : bsize ≠ 0)
    (few : blockCount bsize data ≤ 65536) (last : k + n = blockCount bsize data + 1)
    (sent : sendBlocks tmo n k s = .next t) :
    ∃ m, EndsAfter (blockCount bsize data) k m s t := by
  induction n generalizing k s with
  | zero =>
    cases sent
    have ord : s.bt.ord.toNat = blockCount bsize data := by
      have := h.ord
      omega
    exact ⟨0, rfl, h.retry, .nothing (Adds.same (t := completeTransfer s) rfl rfl rfl),
      .inl ⟨last, rfl, rfl, rfl, ord, h.failIndex, h.failOrd⟩⟩
  | succ n ih =>
    have k1 : 1 ≤ k := h.ord ▸ Nat.succ_pos _
    have inside : k ≤ blockCount bsize data := by omega
    have read := h.loaded.block b k1 inside
    rcases h.blockLoop_ends (by omega) rfl inside with ⟨u, frames, acked, next, later, reported⟩ | ⟨v, aborted, ended⟩
    · rw [sendBlocks_of_acknowledged read acked] at sent
      obtain ⟨m, payload, retry, reports, ends⟩ := ih next (by omega) sent
      refine ⟨m + 1, payload, retry, .cons reported ?_ next.loaded.nblocks later reports, ?_⟩
      · exact Nat.add_right_cancel next.ord
      · simpa only [Nat.add_assoc, Nat.add_comm 1 m] using ends
    · rw [sendBlocks_of_aborted read aborted] at sent
      cases sent
      exact ⟨0, ended⟩

end

theorem blockCount_le {s : State} {bsize : Half} {data : Bytes} (started : s.transferable bsize data) :
    blockCount bsize data ≤ 65536 := by
  obtain ⟨-, -, -, -, few⟩ := started
  split at few <;> omega

theorem transferStart_beforeBlock {s : State} {bsize : Half} {data : Bytes} (started : s.transferable bsize data)
    (ext : Bool) : BeforeBlock data bsize 1 (transferStart ext bsize data s) :=
  ⟨transferStart_loaded started ext, rfl, Nat.zero_le _, rfl, rfl⟩

/-- How SEND_BUFFER of a transfer that starts ends: after `m` acknowledged and reported blocks, before its response. -/
theorem exec_sendBuffer_ends {s t : State} {ext : Bool} {bsize : Half} {data : Bytes}
    (h : exec (.sendBuffer ext bsize data) s = .next t) (started : s.transferable bsize data) :
    ∃ m u, t = respond u ∧ u.cfg = s.cfg ∧ Loaded data bsize u ∧
      EndsAfter (blockCount bsize data) 1 m (transferStart ext bsize data (accept s)) u := by
  obtain ⟨u, sent, rfl⟩ := (exec_sendBuffer_next_iff started ext).1 h
  have before := transferStart_beforeBlock (s := accept s) started ext
  have keeps := sendBlocks_keeps sent
  obtain ⟨m, ended⟩ := before.sendBlocks_ends started.2.1 (blockCount_le started) (Nat.add_comm _ _) sent
  exact ⟨m, u, rfl, keeps.cfg, before.loaded.keep keeps, ended⟩

/-- Settles O39: the end of the blocks is the end of the command. -/
theorem sendBufferEnds : Obligations.SendBufferEnds := by
  intro s t ext bsize data h started
  obtain ⟨m, u, rfl, cfg, loaded, payload, retry, -, ends⟩ := exec_sendBuffer_ends h started
  rw [cfg] at retry
  obtain ⟨-, -, -, -, few⟩ := started
  rcases ends with ⟨-, done⟩ | ⟨inside, aborted⟩
  · exact ⟨loaded.nblocks, Nat.le_of_eq done.ord, payload, retry,
      .inl ⟨done.state, done.ok, done.err, done.ord, done.failIndex, done.failOrd⟩⟩
  · have index : u.bt.index.toNat = wireIndex s.cfg.oneToN (blockCount bsize data) u.bt.ord.toNat := by
      rw [aborted.index, aborted.ord, cfg, toNat_blockIndex inside few]
    have atLeast : 1 ≤ u.bt.ord.toNat := by
      rw [aborted.ord]
      omega
    exact ⟨loaded.nblocks, aborted.ord ▸ inside, payload, retry,
      .inr ⟨aborted.state, aborted.ok, atLeast, aborted.failOrd, aborted.failIndex, index, cfg ▸ aborted.cause⟩⟩

theorem progressOf_respond {s u : State} (h : s.trace <+: u.trace) :
    progressOf ((respond u).eventsSince s) = progressOf (u.eventsSince s) := by
  have responded : (respond u).eventsSince s = u.eventsSince s ++ [.response (responseOf u.res)] := by
    apply eventsSince_eq
    rw [respond_trace, ← List.append_assoc, ← trace_eq_of_prefix h]
  simp [responded, progressOf]

/-- Settles O44: a transfer reports exactly its acknowledged blocks, from the first on, and starts with BT_ELAPSED 0. -/
theorem progressInOrder : Obligations.ProgressInOrder := by
  intro s t ext bsize data h started
  obtain ⟨m, u, rfl, -, -, -, -, reports, ends⟩ := exec_sendBuffer_ends h started
  have since : progressOf ((respond u).eventsSince s) =
      progressOf (u.eventsSince (transferStart ext bsize data (accept s))) :=
    progressOf_respond (s := s) reports.trace
  rw [since]
  refine ⟨m, by omega, ?ok, ?failed, ?numbers, reports.rising⟩
  case ok =>
    intro ok
    rcases ends with ⟨all, -⟩ | ⟨-, aborted⟩
    · omega
    · exact absurd (ok.symm.trans aborted.ok) Bool.true_eq_false_eq_False
  case failed =>
    intro failed
    rcases ends with ⟨-, done⟩ | ⟨-, aborted⟩
    · exact absurd (failed.symm.trans done.ok) Bool.false_ne_true
    · rw [Nat.add_comm]
      exact aborted.ord.symm
  case numbers =>
    rw [reports.numbers, List.range'_eq_map_range, List.map_map]
    exact List.map_congr_left fun j _ => congrArg (·, _) (Nat.add_comm 1 j)

end Sys2Proof.Machine
end

