-- ==== Sys2Proof/Proofs/TransferEvents.lean ====
section
/-! SEND_BUFFER where the LINK's answers are given: one attempt and its outcome, and the exact events and registers
of blocks acknowledged at their first attempt (42_block_transfer.md R243 to R247; 60_exceptions.md R394). -/

namespace Sys2Proof.Machine

/-! ## The answers and events of an attempt depend on the configuration only -/

theorem attemptAnswer_congr {s b : State} (cfg : s.cfg = b.cfg) (build : s.build = b.build) (tg : Bool) (params d : Bytes) :
    s.attemptAnswer tg params d = b.attemptAnswer tg params d := by
  simp only [State.attemptAnswer, cfg, build]

theorem attemptEvents_congr {s b : State} (cfg : s.cfg = b.cfg) (build : s.build = b.build) (tmo : Nat) (tg : Bool)
    (params d : Bytes) : s.attemptEvents tmo tg params d = b.attemptEvents tmo tg params d := by
  simp only [State.attemptEvents, State.attemptAnswer, cfg, build]

/-- TOGGLE after `m` frames and then `n` more (40_frame_codec.md R162). -/
theorem xor_parity_add (t : Bool) (m n : Nat) :
    ((t ^^ decide (m % 2 = 1)) ^^ decide (n % 2 = 1)) = (t ^^ decide ((m + n) % 2 = 1)) := by
  rcases Nat.mod_two_eq_zero_or_one m with hm | hm <;> rcases Nat.mod_two_eq_zero_or_one n with hn | hn <;>
    simp [Nat.add_mod, hm, hn]

/-- TOGGLE after one frame and then `n` more. -/
theorem not_xor_parity (t : Bool) (n : Nat) : ((!t) ^^ decide (n % 2 = 1)) = (t ^^ decide ((n + 1) % 2 = 1)) := by
  rw [Nat.add_comm, ← xor_parity_add t 1 n]
  cases t <;> rfl

/-! ## One attempt -/

/-- The state after an attempt to which the LINK returned the echo and a reply with the data `d`. -/
def repliedAttempt (params d : Bytes) (tmo : Half) (w : List Bool) (r : List ReadAnswer) (s : State) : State :=
  let op := sentOpcode s.toggle s.build.opcCont
  { s with
    toggle := !s.toggle
    tx := {
      state := .success, frame := wireFrame s.cfg.fast op params, opcode := op, timeout := tmo, ignore := false
      rxBuf := (s.attemptAnswer s.toggle params d).bytes, ok := true, err := .noErr, payload := some (~~~op :: d) }
    bt := { s.bt with state := .check, lastStatus := d.head?.getD 0xFF }
    trace := s.trace ++ s.attemptEvents tmo.toNat s.toggle params d
    link := { s.link with writes := w, reads := r } }

section
variable {s : State} {params : Bytes} {tmo : Half}

/-- The echo of a frame and a reply to its opcode pass the checks of the read (41_transceiver.md R205 to R208). -/
theorem checkRead_of_reply {op : Byte} (d : Bytes) (sent : s.tx.opcode = op) :
    checkRead (wireFrame s.cfg.fast op params) false
      ⟨wireFrame s.cfg.fast op params ++ wireFrame s.cfg.fast (~~~op) d, false⟩ s = succExchange (some (~~~op :: d)) s := by
  have payload : afterPreamble (enterTx .awaitReply s).cfg.fast (wireFrame s.cfg.fast (~~~op) d) =
      some (bodyOf (enterTx .awaitReply s).cfg.fast (~~~op :: d)) := afterPreamble_wireFrame ..
  rw [checkRead_of_echo (wireFrame_ne_nil _ _ _) (.inl rfl), checkReply_of_payload payload, enterTx_tx, sent,
    List.head?_cons, if_pos rfl,
    succExchange_enterTx]

theorem statusByte_reply (op : Byte) (d : Bytes) : statusByte (some (op :: d)) = d.head? := by cases d <;> rfl

/-- An attempt that is echoed and replied to (41_transceiver.md R215; R246). -/
theorem attempt_of_reply {d : Bytes} {w : List Bool} {r : List ReadAnswer}
    (link : s.linkGives (s.attemptAnswer s.toggle params d) w r)
    (ok : framable s.build s.build.opcCont params.length = true) :
    attempt params tmo s = repliedAttempt params d tmo w r s := by
  have exchange := (transceive_reads (s := enterBt .send s) link ok tmo false).trans (checkRead_of_reply d rfl)
  obtain ⟨-, writes, reads⟩ := link
  simp only [attempt, exchange, succExchange_tx, if_true]
  apply State.eq_of_fields <;>
    simp [repliedAttempt, readState, State.attemptAnswer, State.attemptEvents, statusByte_reply, writes, reads]

/-- An attempt with an answer of the LINK that is written in terms of another state `b` of the same configuration: what it
leaves, and its outcome. -/
theorem attempt_of_answer {b : State} {d : Bytes} {w : List Bool} {r : List ReadAnswer} (cfg : s.cfg = b.cfg)
    (build : s.build = b.build) (opened : s.linkOpen = true) (ok : framable b.build b.build.opcCont params.length = true)
    (writes : s.link.writes = true :: w) (reads : s.link.reads = b.attemptAnswer s.toggle params d :: r) :
    attempt params tmo s = repliedAttempt params d tmo w r s ∧
      classifyAttempt (attempt params tmo s) = classifyStatus b.build d.head? := by
  have attempted : attempt params tmo s = repliedAttempt params d tmo w r s :=
    attempt_of_reply ⟨opened, writes, by rw [reads, attemptAnswer_congr cfg build]⟩ (by rwa [build])
  refine ⟨attempted, ?_⟩
  rw [attempted, classifyAttempt_of_reply rfl rfl, ← build]
  rfl

/-- An attempt whose exchange fails leaves what the exchange left. -/
theorem attempt_of_fail {e : ErrCode} {u : State}
    (failed : transceive s.build.opcCont params tmo false (enterBt .send s) = failExchange e u) :
    attempt params tmo s = failExchange e u := by
  simp [attempt, failed]

/-! ## The loop of a block, by the outcome of its next attempt (R248, R249) -/

theorem blockLoop_of_okay (left : Nat) (okay : classifyAttempt (attempt params tmo s) = .okay) :
    blockLoop params tmo left s = .acknowledged (acknowledge (attempt params tmo s)) := by
  rw [blockLoop.eq_def]
  simp only [okay]

theorem blockLoop_of_lost (left : Nat) (failed : classifyAttempt (attempt params tmo s) = .transceiveFailed)
    (lost : (probe (attempt params tmo s)).tx.ok = false) :
    blockLoop params tmo left s = .aborted (abort .linkLost (probe (attempt params tmo s))) := by
  rw [blockLoop.eq_def]
  simp [failed, lost]

theorem blockLoop_of_probed (left : Nat) (failed : classifyAttempt (attempt params tmo s) = .transceiveFailed)
    (reached : (probe (attempt params tmo s)).tx.ok = true) :
    blockLoop params tmo (left + 1) s = blockLoop params tmo left (backoff (probe (attempt params tmo s))) := by
  rw [blockLoop]
  simp [failed, reached]

theorem blockLoop_of_refused (bad : classifyAttempt (attempt params tmo s) ≠ .okay)
    (replied : classifyAttempt (attempt params tmo s) ≠ .transceiveFailed) :
    blockLoop params tmo 0 s = .aborted (abort .blockTransferFailed (attempt params tmo s)) ∧
      ∀ left, blockLoop params tmo (left + 1) s = blockLoop params tmo left (backoff (attempt params tmo s)) := by
  have ends (left : Nat) :
      (left = 0 ∧ blockLoop params tmo left s = .aborted (abort .blockTransferFailed (attempt params tmo s))) ∨
        ∃ l, left = l + 1 ∧ blockLoop params tmo left s = blockLoop params tmo l (backoff (attempt params tmo s)) := by
    rcases blockLoop_cases params tmo left s with ⟨okay, -⟩ | ⟨failed, -⟩ | ⟨v, ⟨rfl, -⟩ | ⟨-, failed, -⟩, ends⟩
    · exact absurd okay bad
    · exact absurd failed replied
    · exact ends
    · exact absurd failed replied
  exact ⟨by simpa using ends 0, fun left => by simpa using ends (left + 1)⟩

end

/-! ## Acknowledged blocks (R247) -/

/-- The transfer of DATA that starts at `b` is at `u` between two blocks, the first `j` blocks acknowledged at their first
attempt. -/
structure AckedBlocks (b : State) (bsize : Half) (data : Bytes) (j : Nat) (u : State) : Prop where
  loaded : Loaded data bsize u
  cfg : u.cfg = b.cfg
  build : u.build = b.build
  linkOpen : u.linkOpen = true
  opens : u.link.opens = b.link.opens
  res : u.res = b.res
  ord : u.bt.ord.toNat = j
  index : u.bt.index.toNat = if j = 0 then 0 else wireIndex b.cfg.oneToN (blockCount bsize data) j
  retry : u.bt.retry = 0
  lastStatus : u.bt.lastStatus = if j = 0 then 0 else b.build.stOkay
  failIndex : u.bt.failIndex = 0
  failOrd : u.bt.failOrd = 0

section
variable {b u : State} {bsize : Half} {data p : Bytes} {j : Nat} {tmo : Half} {w : List Bool} {r : List ReadAnswer}

theorem transferStart_ackedBlocks (started : b.transferable bsize data) (ext : Bool) :
    AckedBlocks b bsize data 0 (transferStart ext bsize data (accept b)) :=
  ⟨transferStart_loaded (s := accept b) started ext, rfl, rfl, started.1, rfl, rfl, rfl, rfl, rfl, rfl, rfl, rfl⟩

/-- The registers of a block that the list of blocks holds, as its loop begins. -/
theorem startBlock_registers (started : b.transferable bsize data)
    (entry : (blockList b.cfg.oneToN bsize data)[j]? = some p) :
    (startBlock (j + 1) (blockIndex b.cfg.oneToN (blockCount bsize data) (j + 1)) u).bt.ord.toNat = j + 1 ∧
      (startBlock (j + 1) (blockIndex b.cfg.oneToN (blockCount bsize data) (j + 1)) u).bt.index.toNat =
        wireIndex b.cfg.oneToN (blockCount bsize data) (j + 1) := by
  obtain ⟨inside, -⟩ := List.getElem?_eq_some_iff.1 entry
  rw [length_blockList] at inside
  have few := blockCount_le started
  obtain ⟨-, -, -, -, start⟩ := started
  refine ⟨?_, toNat_blockIndex inside start⟩
  show (BitVec.ofNat 17 (j + 1)).toNat = j + 1
  rw [BitVec.toNat_ofNat]
  omega

/-- One more block is acknowledged. -/
theorem AckedBlocks.next (h : AckedBlocks b bsize data j u) (started : b.transferable bsize data)
    (entry : (blockList b.cfg.oneToN bsize data)[j]? = some p) (writes : u.link.writes = true :: w)
    (reads : u.link.reads = b.attemptAnswer u.toggle p [b.build.stOkay] :: r) :
    ∃ v, (∀ n, sendBlocks tmo (n + 1) (j + 1) u = sendBlocks tmo n (j + 2) v) ∧ AckedBlocks b bsize data (j + 1) v ∧
      v.toggle = !u.toggle ∧ v.link.writes = w ∧ v.link.reads = r ∧ u.bt.elapsed ≤ v.bt.elapsed ∧
      v.trace = u.trace ++ b.attemptEvents tmo.toNat u.toggle p [b.build.stOkay] ++
        [.progress (BitVec.ofNat 17 (j + 1)) (BitVec.ofNat 17 (blockCount bsize data)) v.bt.elapsed] := by
  have read := h.loaded.block_eq_getElem started.2.1 (by rwa [h.cfg])
  obtain ⟨ord, index⟩ := startBlock_registers (u := u) started entry
  rw [h.cfg] at read
  generalize blockIndex b.cfg.oneToN (blockCount bsize data) (j + 1) = idx at read ord index
  have nblocks : u.bt.nblocks = BitVec.ofNat 17 (blockCount bsize data) := eq_ofNat_of_toNat h.loaded.nblocks
  obtain ⟨attempted, outcome⟩ := attempt_of_answer (s := startBlock (j + 1) idx u) (tmo := tmo) h.cfg h.build h.linkOpen
    (framable_of_mem_blockList started (List.mem_of_getElem? entry)) writes reads
  have okay : classifyAttempt (attempt p tmo (startBlock (j + 1) idx u)) = .okay := outcome.trans (if_pos rfl)
  refine ⟨_, fun n => sendBlocks_of_acknowledged read (blockLoop_of_okay _ okay), ?_⟩
  rw [attempted]
  refine ⟨⟨?_, h.cfg, h.build, h.linkOpen, h.opens, h.res, ord, index.trans (if_neg (Nat.succ_ne_zero j)).symm, rfl, rfl,
    h.failIndex, h.failOrd⟩, rfl, rfl, rfl, acknowledge_elapsed (repliedAttempt p _ tmo w r (startBlock (j + 1) idx u)), ?_⟩
  · exact ⟨h.loaded.mem, h.loaded.len, h.loaded.cap, h.loaded.size, h.loaded.nblocks⟩
  · rw [← attemptEvents_congr h.cfg h.build, ← nblocks]
    rfl

/-- Some more blocks are acknowledged, one after another. -/
theorem AckedBlocks.many (h : AckedBlocks b bsize data j u) (started : b.transferable bsize data) {done rest : List Bytes}
    (blocks : (blockList b.cfg.oneToN bsize data).drop j = done ++ rest)
    (writes : u.link.writes = List.replicate done.length true ++ w)
    (reads : u.link.reads = b.attemptAnswers u.toggle (done.map fun q => (q, [b.build.stOkay])) ++ r) :
    ∃ v es, (∀ n, sendBlocks tmo (done.length + n) (j + 1) u = sendBlocks tmo n (j + done.length + 1) v) ∧
      AckedBlocks b bsize data (j + done.length) v ∧ v.toggle = (u.toggle ^^ decide (done.length % 2 = 1)) ∧
      v.link.writes = w ∧ v.link.reads = r ∧ es.length = done.length ∧ risingFrom u.bt.elapsed es = true ∧
      v.bt.elapsed = es.getLastD u.bt.elapsed ∧
      v.trace = u.trace ++
        b.ackedEvents tmo.toNat (BitVec.ofNat 17 (blockCount bsize data)) (j + 1) u.toggle es done := by
  induction done generalizing j u with
  | nil =>
    exact ⟨u, [], fun n => by simp, h, by simp, writes, reads, rfl, rfl, rfl, by simp [State.ackedEvents]⟩
  | cons q done ih =>
    have entry : (blockList b.cfg.oneToN bsize data)[j]? = some q := by
      rw [← Nat.add_zero j, ← List.getElem?_drop, blocks]
      rfl
    have later : (blockList b.cfg.oneToN bsize data).drop (j + 1) = done ++ rest := by
      rw [← List.tail_drop, blocks]
      rfl
    obtain ⟨v, sent, acked, toggle, writes', reads', rising, trace⟩ := h.next (tmo := tmo) started entry writes reads
    obtain ⟨x, es, sentAll, ackedAll, toggleAll, writesAll, readsAll, length, risingAll, last, traceAll⟩ :=
      ih acked later writes' (by rw [reads', toggle]; rfl)
    have count : j + (done.length + 1) = j + 1 + done.length := by omega
    refine ⟨x, v.bt.elapsed :: es, fun n => ?_, ?_, ?_, writesAll, readsAll, ?_, ?_, ?_, ?_⟩
    · rw [List.length_cons, Nat.add_right_comm, sent, sentAll, count]
    · rwa [List.length_cons, count]
    · rw [toggleAll, toggle, not_xor_parity, List.length_cons]
    · simp [length]
    · simp [risingFrom, rising, risingAll]
    · rw [last]
      cases es <;> rfl
    · rw [traceAll, trace, toggle]
      simp [State.ackedEvents]

end

/-- What SEND_BUFFER adds to the trace: the events of its blocks and then the response. -/
theorem eventsSince_respond {s u : State} {es : List Event} (trace : u.trace = s.trace ++ es) :
    (respond u).eventsSince s = es ++ [.response (responseOf u.res)] :=
  eventsSince_eq (by simp [trace])

/-- Settles O35: every block is acknowledged at its first attempt, and after the last the transfer completes. -/
theorem sendBufferCompletes : Obligations.SendBufferCompletes := by
  intro s ext bsize data w r started blocks n tmo writes reads
  obtain ⟨v, es, sent, acked, toggle, writes', reads', length, rising, last, trace⟩ :=
    (transferStart_ackedBlocks started ext).many (tmo := transferTimeout ext s.cfg) started (done := blocks) (rest := [])
      (List.append_nil _).symm (by rwa [length_blockList]) reads
  have all : blocks.length = n := length_blockList ..
  rw [all] at sent acked toggle length
  rw [Nat.zero_add] at acked
  have sentAll : sendBlocks (transferTimeout ext s.cfg) n 1 (transferStart ext bsize data (accept s)) =
      .next (completeTransfer v) := sent 0
  have keeps := sendBlocks_keeps sentAll
  refine ⟨_, es, (exec_sendBuffer_next_iff started ext).2 ⟨_, sentAll, rfl⟩, length, rising,
    eventsSince_respond (s := s) trace, ?res, toggle, rfl, keeps.bsize, keeps.ext, acked.loaded.nblocks, acked.ord,
    acked.retry, acked.failIndex, acked.failOrd, ?index, acked.lastStatus, last, keeps.len, acked.loaded.readByte, writes', reads',
    acked.opens, acked.linkOpen, keeps.savedParams, acked.cfg, acked.build, rfl, keeps.hostRes, keeps.pending,
    keeps.resetInput, keeps.hangIn⟩
  case res => rw [respond_res, completeTransfer_res, acked.res]
  case index =>
    rw [respond_bt]
    refine acked.index.trans ?_
    unfold wireIndex
    cases s.cfg.oneToN <;> simp +contextual [n]

end Sys2Proof.Machine
end

