-- ==== Sys2Proof/Proofs/TransferFailures.lean ====
section
/-! SEND_BUFFER where an attempt fails and the LINK's answers are given: retries used up, a probe and a retry, and a link
that is lost (42_block_transfer.md R248 to R252, R254). -/

namespace Sys2Proof.Machine

/-! ## A block whose every reply has a bad status, or none -/

/-- The back-off before the next retry of a block (R250). -/
theorem backoff_trace {s : State} (room : s.bt.retry.toNat + 1 < 256) :
    (backoff s).trace = s.trace ++ [.delayed (s.backoffDelay (s.bt.retry.toNat + 1))] := by
  rw [← toNat_backoff_retry room]
  rfl

/-- The attempts of a block with the replies' data `replies` lead from `v` to `u`, each but the first one retry more, with
a LINK whose answers are in terms of `b` (R246, R248, R250). -/
structure Tried (b : State) (p : Bytes) (tmo : Half) (replies : List Bytes) (v u : State) : Prop where
  cfg : u.cfg = v.cfg
  linkOpen : u.linkOpen = v.linkOpen
  res : u.res = v.res
  toggle : u.toggle = (v.toggle ^^ decide (replies.length % 2 = 1))
  trace : u.trace = v.trace ++ b.triedEvents tmo.toNat p v.bt.retry.toNat v.toggle replies
  bt : u.bt = { v.bt with
    state := .check, retry := v.bt.retry + BitVec.ofNat 8 (replies.length - 1)
    lastStatus := (replies.getLast?.bind List.head?).getD 0xFF }

section
variable {b v u : State} {p d e : Bytes} {ds : List Bytes} {tmo : Half} {w : List Bool} {r : List ReadAnswer}

theorem repliedAttempt_tried (cfg : v.cfg = b.cfg) (build : v.build = b.build) :
    Tried b p tmo [d] v (repliedAttempt p d tmo w r v) := by
  refine ⟨rfl, rfl, rfl, by simp [repliedAttempt], ?_, by simp [repliedAttempt]⟩
  rw [State.triedEvents, ← attemptEvents_congr cfg build]
  rfl

theorem Tried.cons (cfg : v.cfg = b.cfg) (build : v.build = b.build) (room : v.bt.retry.toNat + 1 < 256)
    (rest : Tried b p tmo (e :: ds) (backoff (repliedAttempt p d tmo w r v)) u) : Tried b p tmo (d :: e :: ds) v u := by
  have counted : (backoff (repliedAttempt p d tmo w r v)).bt.retry.toNat = v.bt.retry.toNat + 1 := toNat_backoff_retry room
  have delayed : (backoff (repliedAttempt p d tmo w r v)).trace =
      v.trace ++ b.attemptEvents tmo.toNat v.toggle p d ++ [.delayed (b.backoffDelay (v.bt.retry.toNat + 1))] := by
    rw [backoff_trace (by exact room), ← attemptEvents_congr cfg build]
    simp only [State.backoffDelay, ← cfg]
    rfl
  refine ⟨rest.cfg, rest.linkOpen, rest.res, ?toggle, ?trace, ?bt⟩
  case toggle =>
    exact rest.toggle.trans (not_xor_parity v.toggle _)
  case trace =>
    rw [rest.trace, delayed, counted, List.append_assoc, List.append_assoc]
    rfl
  case bt =>
    have sum : v.bt.retry + 1#8 + BitVec.ofNat 8 ds.length = v.bt.retry + BitVec.ofNat 8 (ds.length + 1) := by
      rw [BitVec.ofNat_add, BitVec.add_comm (BitVec.ofNat 8 ds.length), BitVec.add_assoc]
    rw [rest.bt]
    simp [backoff, repliedAttempt, sum]

/-- Replies that do not acknowledge a block use up its retries (R246, R248, R251). -/
theorem blockLoop_of_bad_replies {left : Nat} (cfg : v.cfg = b.cfg)
    (build : v.build = b.build) (opened : v.linkOpen = true) (ok : framable b.build b.build.opcCont p.length = true)
    (count : ds.length = left) (bad : ∀ x ∈ d :: ds, x.head? ≠ some b.build.stOkay) (room : v.bt.retry.toNat + left < 256)
    (writes : v.link.writes = List.replicate (left + 1) true ++ w)
    (reads : v.link.reads = b.attemptAnswers v.toggle ((d :: ds).map fun x => (p, x)) ++ r) :
    ∃ u, blockLoop p tmo left v = .aborted (abort .blockTransferFailed u) ∧ Tried b p tmo (d :: ds) v u ∧
      u.link.writes = w ∧ u.link.reads = r := by
  induction left generalizing v d ds with
  | zero =>
    obtain rfl := List.length_eq_zero_iff.1 count
    obtain ⟨attempted, outcome⟩ := attempt_of_answer (tmo := tmo) cfg build opened ok writes reads
    obtain ⟨notOkay, replied⟩ := classifyStatus_of_ne_okay (bad d List.mem_cons_self)
    rw [← outcome] at notOkay replied
    refine ⟨_, (blockLoop_of_refused notOkay replied).1, ?_⟩
    rw [attempted]
    exact ⟨repliedAttempt_tried cfg build, rfl, rfl⟩
  | succ left ih =>
    obtain ⟨e, es, rfl⟩ := List.exists_cons_of_length_eq_add_one count
    obtain ⟨later, answers⟩ : ∃ later, later = b.attemptAnswers (!v.toggle) ((e :: es).map fun x => (p, x)) ++ r := ⟨_, rfl⟩
    obtain ⟨attempted, outcome⟩ := attempt_of_answer (tmo := tmo) (r := later) cfg build opened ok writes
      (by rw [answers]; exact reads)
    obtain ⟨notOkay, replied⟩ := classifyStatus_of_ne_okay (bad d List.mem_cons_self)
    rw [← outcome] at notOkay replied
    rw [(blockLoop_of_refused notOkay replied).2 left, attempted]
    have counted : (backoff (repliedAttempt p d tmo (List.replicate (left + 1) true ++ w) later v)).bt.retry.toNat =
        v.bt.retry.toNat + 1 := toNat_backoff_retry (Nat.lt_of_le_of_lt (Nat.add_le_add_left (Nat.succ_pos left) _) room)
    obtain ⟨u, aborted, tried, writes', reads'⟩ := ih
      (v := backoff (repliedAttempt p d tmo (List.replicate (left + 1) true ++ w) later v)) cfg build opened
      (Nat.succ.inj count) (fun x mem => bad x (List.mem_cons_of_mem d mem)) (by omega) rfl answers
    exact ⟨u, aborted, .cons cfg build (by omega) tried, writes', reads'⟩

end

/-- Settles O40: the blocks before are acknowledged, and the replies to this one use up its retries. -/
theorem sendBufferRetriesExhausted : Obligations.SendBufferRetriesExhausted := by
  intro s ext bsize data p done rest replies w r started blocks count bad n k tmo tg writes reads
  obtain ⟨d, ds, rfl⟩ := List.exists_cons_of_length_eq_add_one count
  rw [← List.replicate_append_replicate, List.append_assoc] at writes
  rw [List.append_assoc] at reads
  obtain ⟨v, es, sent, acked, toggle, writes', reads', length, rising, last, trace⟩ :=
    (transferStart_ackedBlocks started ext).many (tmo := transferTimeout ext s.cfg) started (done := done) blocks writes reads
  rw [Nat.zero_add] at sent acked
  have all : n = done.length + (rest.length + 1) := by
    have := congrArg List.length blocks
    simpa [n] using this
  have entry : (blockList s.cfg.oneToN bsize data)[done.length]? = some p := by simp [blocks]
  have read := acked.loaded.block_eq_getElem started.2.1 (by rwa [acked.cfg])
  obtain ⟨ord, index⟩ := startBlock_registers (u := v) started entry
  rw [acked.cfg] at read
  generalize blockIndex s.cfg.oneToN (blockCount bsize data) (done.length + 1) = idx at read ord index
  have room : (0#8).toNat + s.cfg.maxRetries.toNat < 256 := by
    rw [BitVec.toNat_zero, Nat.zero_add]
    exact s.cfg.maxRetries.isLt
  obtain ⟨u, aborted, tried, writesAll, readsAll⟩ := blockLoop_of_bad_replies (v := startBlock k idx v)
    (tmo := transferTimeout ext s.cfg) acked.cfg acked.build acked.linkOpen
    (framable_of_mem_blockList started (List.mem_of_getElem? entry)) (Nat.succ.inj count) bad room
    (by rw [← count]; exact writes') (by rw [startBlock_toggle, toggle]; exact reads')
  have sentAll : sendBlocks (transferTimeout ext s.cfg) n 1 (transferStart ext bsize data (accept s)) =
      .next (abort .blockTransferFailed u) := by
    rw [all, sent, Nat.zero_add, sendBlocks_of_aborted read (by rw [acked.cfg]; exact aborted)]
  have nblocks : u.bt.nblocks.toNat = n := by
    rw [tried.bt]
    exact acked.loaded.nblocks
  have ordinal : u.bt.ord.toNat = k := by
    rw [tried.bt]
    exact ord
  have wire : u.bt.index.toNat = wireIndex s.cfg.oneToN n k := by
    rw [tried.bt]
    exact index
  refine ⟨_, es, (exec_sendBuffer_next_iff started ext).2 ⟨_, sentAll, rfl⟩, length, rising,
    eventsSince_respond (s := s) ?events, ?res, ?toggle, rfl, nblocks, ordinal, ordinal, rfl, wire, ?retry, ?status,
    ?elapsed, writesAll, readsAll, tried.linkOpen.trans acked.linkOpen, tried.cfg.trans acked.cfg⟩
  case events =>
    rw [abort_trace, tried.trace, startBlock_trace, trace, List.append_assoc, startBlock_toggle, toggle]
    rfl
  case res => rw [respond_res, abort_res, tried.res, startBlock_res, acked.res]
  case toggle =>
    rw [respond_toggle, abort_toggle, tried.toggle, startBlock_toggle, toggle]
    exact xor_parity_add ..
  case retry =>
    show u.bt.retry = s.cfg.maxRetries
    rw [tried.bt, List.length_cons, Nat.succ.inj count]
    simp [startBlock]
  case status =>
    show u.bt.lastStatus = _
    rw [tried.bt]
  case elapsed =>
    show u.bt.elapsed = _
    rw [tried.bt]
    exact last

/-! ## The first block of a transfer -/

section
variable {s : State} {bsize : Half} {data p : Bytes}

/-- The state in which the loop of the first block begins. -/
def firstBlock (ext : Bool) (bsize : Half) (data : Bytes) (s : State) : State :=
  startBlock 1 (blockIndex s.cfg.oneToN (blockCount bsize data) 1) (transferStart ext bsize data (accept s))

/-- The first block is read, and its loop begins in `firstBlock`. -/
theorem read_firstBlock (started : s.transferable bsize data) (ext : Bool)
    (entry : (blockList s.cfg.oneToN bsize data)[0]? = some p) :
    block 1 (transferStart ext bsize data (accept s)) = some (blockIndex s.cfg.oneToN (blockCount bsize data) 1, p) :=
  (transferStart_loaded (s := accept s) started ext).block_eq_getElem started.2.1 entry

end

/-! ## A failed exchange: the probe, the back-off and the same frame again -/

/-- The events of an exchange of the frame `f` whose write succeeds and whose read returns `a` (41_transceiver.md R202). -/
def exchangeEvents (f : Bytes) (tmo : Half) (a : ReadAnswer) : List Event :=
  [.wrote f true, .delayed tmo.toNat, .received tmo.toNat a]

section
variable {s : State} {p : Bytes} {tmo : Half} {a : ReadAnswer} {w : List Bool} {r : List ReadAnswer}

theorem checkRead_of_no_echo {f rx : Bytes} (notExact : ¬f <+: rx) (notRelaxed : ¬f <+: rx.drop 1) :
    checkRead f false ⟨rx, false⟩ s = failExchange .noEcho s := by
  have missing : stripEcho s.cfg.glitchyEn f rx = none := stripEcho_none notExact fun _ => notRelaxed
  simp [checkRead, checkEcho, missing]

/-- An attempt whose echo does not come back (41_transceiver.md R205). -/
theorem attempt_of_no_echo {rx : Bytes} (link : s.linkGives ⟨rx, false⟩ w r)
    (ok : framable s.build s.build.opcCont p.length = true)
    (notExact : ¬wireFrame s.cfg.fast (sentOpcode s.toggle s.build.opcCont) p <+: rx)
    (notRelaxed : ¬wireFrame s.cfg.fast (sentOpcode s.toggle s.build.opcCont) p <+: rx.drop 1) :
    attempt p tmo s = failExchange .noEcho (readState (wireFrame s.cfg.fast (sentOpcode s.toggle s.build.opcCont) p)
      (sentOpcode s.toggle s.build.opcCont) tmo false ⟨rx, false⟩ (enterBt .send s)) :=
  attempt_of_fail ((transceive_reads (s := enterBt .send s) link ok tmo false).trans
    (checkRead_of_no_echo notExact notRelaxed))

theorem framable_ping (b : Build) : framable b Config.opcPing 0 = true := by
  unfold framable withinMaxParams
  split <;> simp [Config.opcPing]

/-- A probe whose write succeeds succeeds, whatever its read returns (R249). -/
theorem probe_of_write (link : s.linkGives a w r) :
    probe s = succExchange none (readState (wireFrame s.cfg.fast (sentOpcode s.toggle Config.opcPing) [])
      (sentOpcode s.toggle Config.opcPing) s.cfg.tBaseMs true a (enterBt .probe s)) :=
  transceive_reads (s := enterBt .probe s) (params := []) link (framable_ping s.build) s.cfg.tBaseMs true

/-- A block whose first exchange gets no echo, whose probe is written and whose second attempt is acknowledged: up to the
acknowledgement (R249, R250, R254). -/
theorem blockLoop_of_no_echo {left : Nat} {rx : Bytes} (opened : s.linkOpen = true)
    (ok : framable s.build s.build.opcCont p.length = true) (fresh : s.bt.retry = 0)
    (writes : s.link.writes = true :: true :: true :: w)
    (reads : s.link.reads = ⟨rx, false⟩ :: a :: s.attemptAnswer s.toggle p [s.build.stOkay] :: r)
    (notExact : ¬wireFrame s.cfg.fast (sentOpcode s.toggle s.build.opcCont) p <+: rx)
    (notRelaxed : ¬wireFrame s.cfg.fast (sentOpcode s.toggle s.build.opcCont) p <+: rx.drop 1) :
    ∃ u, blockLoop p tmo (left + 1) s = .acknowledged (acknowledge u) ∧ u.toggle = (!s.toggle) ∧ u.res = s.res ∧
      u.link.elapsed = s.link.elapsed ∧
      u.bt = { s.bt with state := .check, retry := 1, lastStatus := s.build.stOkay } ∧
      u.trace = s.trace ++
        (exchangeEvents (wireFrame s.cfg.fast (sentOpcode s.toggle s.build.opcCont) p) tmo ⟨rx, false⟩ ++
          exchangeEvents (wireFrame s.cfg.fast (sentOpcode (!s.toggle) Config.opcPing) []) s.cfg.tBaseMs a ++
          [.delayed s.cfg.backoffUnitMs.toNat]) ++
        s.attemptEvents tmo.toNat s.toggle p [s.build.stOkay] := by
  have attempted := attempt_of_no_echo (tmo := tmo) ⟨opened, writes, reads⟩ ok notExact notRelaxed
  have probed := probe_of_write (s := attempt p tmo s) (a := a) (w := true :: w) (r := _ :: r)
    (by rw [attempted]; exact ⟨opened, congrArg List.tail writes, congrArg List.tail reads⟩)
  have failed : classifyAttempt (attempt p tmo s) = .transceiveFailed := classifyAttempt_of_failed (by rw [attempted]; rfl)
  have reached : (probe (attempt p tmo s)).tx.ok = true := by rw [probed]; rfl
  rw [blockLoop_of_probed left failed reached]
  rw [attempted] at probed ⊢
  rw [probed]
  generalize hv : backoff (succExchange none _) = v
  have toggle : v.toggle = s.toggle := by
    subst hv
    exact Bool.not_not s.toggle
  have cfg : v.cfg = s.cfg := by subst hv; rfl
  have build : v.build = s.build := by subst hv; rfl
  have bt : v.bt = { s.bt with state := .backoff, retry := 1 } := by
    subst hv
    simp [backoff, readState, fresh]
  have trace : v.trace = s.trace ++
      (exchangeEvents (wireFrame s.cfg.fast (sentOpcode s.toggle s.build.opcCont) p) tmo ⟨rx, false⟩ ++
        exchangeEvents (wireFrame s.cfg.fast (sentOpcode (!s.toggle) Config.opcPing) []) s.cfg.tBaseMs a ++
        [.delayed s.cfg.backoffUnitMs.toNat]) := by
    subst hv
    simp [backoff, backoffMs, readState, fresh, exchangeEvents]
  obtain ⟨again, outcome⟩ := attempt_of_answer (s := v) (tmo := tmo) (d := [s.build.stOkay]) (w := w) (r := r) cfg build
    (by subst hv; exact opened) ok (by subst hv; exact congrArg (List.tail ∘ List.tail) writes)
    (by rw [toggle]; subst hv; exact congrArg (List.tail ∘ List.tail) reads)
  refine ⟨_, blockLoop_of_okay left (outcome.trans (if_pos rfl)), ?_⟩
  rw [again]
  refine ⟨congrArg not toggle, by subst hv; rfl, by subst hv; rfl, by simp [repliedAttempt, bt], ?_⟩
  rw [← trace, ← toggle, ← attemptEvents_congr cfg build]
  rfl

end

/-- Settles O41: the block's second attempt is acknowledged, and with it the transfer completes. -/
theorem sendBufferProbesAndRetries : Obligations.SendBufferProbesAndRetries := by
  intro s ext bsize data rx p a w r e el started blocks retries tmo f ping ack writes reads elapsed notExact notRelaxed
  have entry : (blockList s.cfg.oneToN bsize data)[0]? = some p := by rw [blocks]; rfl
  have one : blockCount bsize data = 1 := by
    rw [← length_blockList s.cfg.oneToN, blocks]
    rfl
  obtain ⟨left, max⟩ := Nat.exists_eq_add_of_le' retries
  obtain ⟨u, acked, toggle, res, elapsed', bt, trace⟩ := blockLoop_of_no_echo (s := firstBlock ext bsize data s)
    (tmo := transferTimeout ext s.cfg) (left := left) started.1
    (framable_of_mem_blockList started (List.mem_of_getElem? entry)) rfl writes reads notExact notRelaxed
  have sentAll : sendBlocks (transferTimeout ext s.cfg) (blockCount bsize data) 1 (transferStart ext bsize data (accept s)) =
      .next (completeTransfer (acknowledge u)) := by
    rw [one, sendBlocks_of_acknowledged (read_firstBlock started ext entry) (max ▸ acked)]
    rfl
  have now : elapsedAnswer u = e := by
    have low : u.bt.elapsed = 0 := congrArg Bt.elapsed bt
    have next : u.link.elapsed = e :: el := elapsed'.trans elapsed
    simp [elapsedAnswer, low, next]
  have nblocks : u.bt.nblocks = 1 := (congrArg Bt.nblocks bt).trans (congrArg (BitVec.ofNat 17) one)
  have reported : (completeTransfer (acknowledge u)).trace = u.trace ++ [.progress 1 1 e] := by
    have ord : u.bt.ord = 1 := congrArg Bt.ord bt
    show u.trace ++ [.progress u.bt.ord u.bt.nblocks (elapsedAnswer u)] = _
    rw [ord, nblocks, now]
  have result : (completeTransfer (acknowledge u)).res = { s.res.succeeded with payload := none } := by
    rw [completeTransfer_res, acknowledge_res, res]
    rfl
  rw [trace, List.append_assoc, List.append_assoc] at reported
  refine ⟨respond (completeTransfer (acknowledge u)), (exec_sendBuffer_next_iff started ext).2 ⟨_, sentAll, rfl⟩, ?events,
    result, ?state, ?retry, ?toggle⟩
  case events =>
    rw [eventsSince_respond (s := s) reported, result]
    simp only [exchangeEvents, State.attemptEvents, List.cons_append, List.nil_append]
    rfl
  case state => rfl
  case retry => exact congrArg Bt.retry bt
  case toggle => rw [respond_toggle, completeTransfer_toggle, acknowledge_toggle, toggle]; rfl

/-! ## A failed write whose reconnect cannot open the link -/

section
variable {s : State} {p tp : Bytes} {tmo : Half} {w o : List Bool}

/-- An exchange whose write fails is one reconnect and CHANNEL_ERROR (41_transceiver.md R212). -/
theorem transceive_of_write_fails {opc : Byte} (opened : s.linkOpen = true) (ok : framable s.build opc p.length = true)
    (writes : s.link.writes = false :: w) (ign : Bool) :
    transceive opc p tmo ign s = failExchange .channelError (reconnect
      (txWrite (wireFrame s.cfg.fast (sentOpcode s.toggle opc) p)
        (exchangeSending (wireFrame s.cfg.fast (sentOpcode s.toggle opc) p) (sentOpcode s.toggle opc) tmo ign s))) := by
  rw [transceive_writes opened ok, writeFrame, if_neg (by simp [writeAnswer, writes])]

/-- A block whose write fails and whose link cannot be opened again: its probe fails the link check (R249, R252). -/
theorem blockLoop_of_no_link (left : Nat) (opened : s.linkOpen = true)
    (ok : framable s.build s.build.opcCont p.length = true) (writes : s.link.writes = false :: w)
    (saved : s.savedParams = some tp) (opens : s.link.opens = false :: o) :
    ∃ u, blockLoop p tmo left s = .aborted (abort .linkLost u) ∧ u.linkOpen = false ∧ u.res = s.res ∧
      u.bt = { s.bt with state := .probe } ∧ u.tx.state = .failed ∧ u.tx.err = .channelError ∧ u.tx.ignore = true ∧
      u.trace = s.trace ++
        [.wrote (wireFrame s.cfg.fast (sentOpcode s.toggle s.build.opcCont) p) false, .closed, .opened tp false] := by
  have attempted := attempt_of_fail (transceive_of_write_fails (s := enterBt .send s) (tmo := tmo) opened ok writes false)
  generalize hx : txWrite _ _ = x at attempted
  rw [reconnect_of_savedParams (p := tp) (by rw [← hx]; exact saved)] at attempted
  subst hx
  have refused : (attempt p tmo s).linkOpen = false := by
    rw [attempted]
    simp [openAnswer, opens]
  have trace : (attempt p tmo s).trace = s.trace ++
      [.wrote (wireFrame s.cfg.fast (sentOpcode s.toggle s.build.opcCont) p) false, .closed, .opened tp false] := by
    rw [attempted]
    simp [openAnswer, opens, writeAnswer, writes]
  have bt : (attempt p tmo s).bt = { s.bt with state := .send } := by rw [attempted]; rfl
  have failed : classifyAttempt (attempt p tmo s) = .transceiveFailed := classifyAttempt_of_failed (by rw [attempted]; rfl)
  have probed : probe (attempt p tmo s) = _ := transceive_closed (s := enterBt .probe (attempt p tmo s)) refused ..
  refine ⟨_, blockLoop_of_lost left failed (by rw [probed]; rfl), ?_⟩
  rw [probed]
  exact ⟨refused, attempt_res .., by simp [exchangeStart, bt], rfl, rfl, rfl, trace⟩

end

/-- Settles O42: the first attempt loses the link, and the probe after it ends the transfer. -/
theorem sendBufferLinkLost : Obligations.SendBufferLinkLost := by
  intro s ext bsize data p tp ps w o started blocks writes saved opens
  have entry : (blockList s.cfg.oneToN bsize data)[0]? = some p := by rw [blocks]; rfl
  have count : blockCount bsize data = ps.length + 1 := by
    rw [← length_blockList s.cfg.oneToN, blocks]
    rfl
  obtain ⟨u, aborted, linkOpen, res, bt, state, err, ignore, trace⟩ := blockLoop_of_no_link (s := firstBlock ext bsize data s)
    (tmo := transferTimeout ext s.cfg) s.cfg.maxRetries.toNat started.1
    (framable_of_mem_blockList started (List.mem_of_getElem? entry)) writes saved opens
  have sentAll : sendBlocks (transferTimeout ext s.cfg) (blockCount bsize data) 1 (transferStart ext bsize data (accept s)) =
      .next (abort .linkLost u) := by
    rw [count, sendBlocks_of_aborted (read_firstBlock started ext entry) aborted]
  have result : (abort .linkLost u).res = { s.res.failed .linkLost with payload := none } := by
    rw [abort_res, res]
    rfl
  have ord : u.bt.ord.toNat = 1 := congrArg (fun b : Bt => b.ord.toNat) bt
  have index : u.bt.index.toNat = wireIndex s.cfg.oneToN (blockCount bsize data) 1 := by
    obtain ⟨-, -, -, -, few⟩ := started
    rw [← toNat_blockIndex (by omega) few]
    exact congrArg (fun b : Bt => b.index.toNat) bt
  refine ⟨respond (abort .linkLost u), (exec_sendBuffer_next_iff started ext).2 ⟨_, sentAll, rfl⟩, ?_, result, linkOpen, rfl,
    congrArg Bt.retry bt, ord, ord, rfl, index, state, err, ignore⟩
  rw [eventsSince_respond (s := s) (u := abort .linkLost u) trace, result]
  rfl

end Sys2Proof.Machine
end

