-- ==== Sys2Proof/Proofs/Port.lean ====
section
/-! The command port (43_control.md R280): when a step takes nothing, what it makes of a request, and the one response that a
command delivers. -/

namespace Sys2Proof.Machine

/-! ## Steps that take nothing -/

theorem step_busy {s : State} (input : s.resetInput ≠ .betweenCommands) (busy : s.cmdState = .busy) : step s = .next s := by
  unfold step
  split
  case h_1 reset => exact absurd reset input
  all_goals rw [busy]

theorem step_of_no_request {s : State} (input : s.resetInput ≠ .betweenCommands) (pend : s.pending = []) :
    step s = .next s := by
  unfold step
  split
  case h_1 reset => exact absurd reset input
  all_goals
    rw [pend]
    cases s.cmdState <;> rfl

/-- Settles O7: a BUSY CORE takes nothing, and one with no request has nothing to take. -/
theorem stepWaits : Obligations.StepWaits := by
  intro s input waits
  rcases waits with busy | pend
  · exact step_busy input busy
  · exact step_of_no_request input pend

/-! ## What a request asks for -/

theorem readRequest_of_instr {r : Request} {i : Instr} (h : decode r.port r.bytes = .instr i []) : readRequest r = .run i := by
  simp only [readRequest, h]

theorem readRequest_of_trailing {r : Request} {i : Instr} {b : Byte} {bs : Bytes}
    (h : decode r.port r.bytes = .instr i (b :: bs)) : readRequest r = .refused .malformedRequest := by
  simp only [readRequest, h]

theorem readRequest_of_incomplete {r : Request} (h : decode r.port r.bytes = .incomplete) :
    readRequest r = .refused .malformedRequest := by
  simp only [readRequest, h]

theorem readRequest_of_unknown {r : Request} (h : decode r.port r.bytes = .unknown) :
    readRequest r = .refused (.unknownWrapper (r.bytes.headD 0)) := by
  simp only [readRequest, h]

theorem step_of_refused {s : State} {r : Request} {later : List Request} {e : Refusal} (idle : s.cmdState = .idle)
    (input : s.resetInput ≠ .betweenCommands) (pend : s.pending = r :: later) (refused : readRequest r = .refused e) :
    step s = .refused e := by
  rw [step_request idle input pend, refused]

/-- Settles O8: each request that is no instruction is refused by its own name, and the step with it. -/
theorem stepRefusesNoInstruction : Obligations.StepRefusesNoInstruction := by
  intro s r later idle input pend
  refine ⟨?incomplete, ?trailing, ?unknown⟩
  case incomplete => exact fun h => step_of_refused idle input pend (readRequest_of_incomplete h)
  case trailing => exact fun i b bs h => step_of_refused idle input pend (readRequest_of_trailing h)
  case unknown =>
    intro op bs bytes h
    have refused := readRequest_of_unknown h
    rw [bytes, List.headD_cons] at refused
    exact step_of_refused idle input pend refused

/-! ## The step that runs an instruction -/

/-- With a LINK that answers and no reset, an instruction is all that happens to its request. -/
theorem settleResult_exec {s : State} (input : s.resetInput = .notAsserted) (hang : s.hangIn = none) (i : Instr) :
    settleResult s (exec i s) = exec i s := by
  cases result : exec i s with
  | next t => exact settle_plain input hang (exec_keeps result).hangIn
  | fault r => rfl
  | refused r => rfl

/-- Settles O6: the request is read as its instruction, and what surrounds the instruction changes nothing. -/
theorem stepRunsTheDecodedInstruction : Obligations.StepRunsTheDecodedInstruction := by
  intro s r later i idle input hang pend decoded
  have noReset : s.resetInput ≠ .betweenCommands := by simp [input]
  rw [step_request idle noReset pend, readRequest_of_instr decoded]
  exact settleResult_exec (s := s.setPending later) input hang i

/-! ## One response per command -/

/-- `t` comes after `s` by some events, no response among them. -/
def Unanswered (s t : State) : Prop := ∃ es, t.trace = s.trace ++ es ∧ ∀ e ∈ es, e.isResponse = false

/-- From `s` to `t` a command has ended: its last event is its response, which holds the result registers, no other event of
it is a response, and the port is ready. -/
def Answered (s t : State) : Prop :=
  t.cmdState = .idle ∧ ∃ es, t.trace = s.trace ++ es ++ [.response (responseOf t.res)] ∧ ∀ e ∈ es, e.isResponse = false

theorem Unanswered.same {s t : State} (trace : t.trace = s.trace) : Unanswered s t := ⟨[], by simp [trace], by simp⟩

theorem AddsSome.unanswered {s t : State} (h : AddsSome s t) : Unanswered s t := by
  obtain ⟨_, _, adds⟩ := h
  exact ⟨_, trace_eq_of_prefix adds.trace, adds.quiet⟩

/-- The response follows the events of the body, and taking the command is no event. -/
theorem Unanswered.answered {s u : State} (h : Unanswered (accept s) u) : Answered s (respond u) := by
  obtain ⟨es, trace, quiet⟩ := h
  refine ⟨rfl, es, ?_, quiet⟩
  rw [respond_trace, trace]
  rfl

theorem encodeBody_unanswered (opc : Byte) (params : Bytes) (s : State) : Unanswered s (encodeBody opc params s) := by
  unfold encodeBody
  split <;> exact .same (by simp)

theorem decodeBody_unanswered (quiet : Bool) (raw : Bytes) (s : State) : Unanswered s (decodeBody quiet raw s) := by
  unfold decodeBody
  dsimp only
  split
  · exact .same rfl
  · refine ⟨_, rfl, ?_⟩
    unfold diagEvents
    split <;> simp [Event.isResponse]

theorem closeIfOpen_unanswered (s : State) : Unanswered s (closeIfOpen s) := by
  unfold closeIfOpen
  split
  · exact ⟨[.closed], rfl, by simp [Event.isResponse]⟩
  · exact .same rfl

theorem sessionStartBody_unanswered (tp : Bytes) (s : State) : Unanswered s (sessionStartBody tp s) := by
  obtain ⟨es, trace, quiet⟩ := closeIfOpen_unanswered s
  refine ⟨es ++ [.opened tp (openAnswer ((closeIfOpen s).setSavedParams (some tp)))], ?_, ?_⟩
  · rw [← List.append_assoc, ← trace]
    rfl
  · simpa [or_imp, forall_and, Event.isResponse] using quiet

theorem sessionEndBody_unanswered (s : State) : Unanswered s (sessionEndBody s) := closeIfOpen_unanswered s

theorem cfgWriteBody_unanswered (addr : Byte) (v : Word) (s : State) : Unanswered s (cfgWriteBody addr v s) := by
  unfold cfgWriteBody
  split <;> exact .same rfl

theorem cfgReadBody_unanswered (addr : Byte) (s : State) : Unanswered s (cfgReadBody addr s) := by
  unfold cfgReadBody
  split <;> exact .same rfl

theorem transceiveBody_unanswered (opc : Byte) (params : Bytes) (tmo : Half) (ign : Bool) (s : State) :
    Unanswered s (transceiveBody opc params tmo ign s) :=
  (transceive_adds opc params tmo ign s).some.unanswered

/-- Every command of the CORE ends with its one response. -/
theorem exec_command_answered {i : Instr} {s t : State} (port : i.port = .command) (h : exec i s = .next t) :
    Answered s t := by
  cases i
  case nop => cases h; exact (Unanswered.same (t := finishOk (accept s)) rfl).answered
  case encode opc params => cases h; exact (encodeBody_unanswered opc params _).answered
  case decode quiet raw => cases h; exact (decodeBody_unanswered quiet raw _).answered
  case transceive ign opc params tmo => cases h; exact (transceiveBody_unanswered opc params tmo ign _).answered
  case sendBuffer ext bsize data =>
    obtain ⟨u, body, rfl⟩ := runCommand_eq_next_iff.1 h
    exact (sendBufferBody_adds body).unanswered.answered
  case sessionStart tp => cases h; exact (sessionStartBody_unanswered tp _).answered
  case sessionEnd => cases h; exact (sessionEndBody_unanswered _).answered
  case cfgWrite addr v => cases h; exact (cfgWriteBody_unanswered addr v _).answered
  case cfgRead addr => cases h; exact (cfgReadBody_unanswered addr _).answered
  case statusRead => cases h; exact (Unanswered.same (t := statusReadBody (accept s)) rfl).answered
  all_goals cases port

/-- Settles O53: a command of the CORE is answered, and a wrapper is one TRANSCEIVE, whose response it keeps, or no command. -/
theorem oneResponsePerCommand : Obligations.OneResponsePerCommand := by
  intro s t i h
  cases port : i.port with
  | command => exact .inl (exec_command_answered port h)
  | wire =>
    rcases exec_wire_cases port h with ⟨opc, params, tmo, ign, rfl⟩ | rfl
    · exact .inl (transceiveBody_unanswered opc params tmo ign (accept s)).answered
    · exact .inr ⟨rfl, rfl⟩

end Sys2Proof.Machine
end

