-- ==== Sys2Proof/Proofs/Control.lean ====
section
/-! NOP, SESSION_START, SESSION_END, CFG_WRITE, and CFG_READ of the configuration and the constants, as whole next states
(43_control.md R281 to R285; 10_state.md R41 to R49). -/

namespace Sys2Proof.Machine

/-! ## NOP -/

theorem exec_nop (s : State) : exec .nop s = .next (s.ended [] s.res.succeeded) := by
  simp only [exec, execNop, command, Host.Outcome.next.injEq]
  exact respond_eq_ended (s := s) (events := []) (by simp)

/-- Settles O12, the words by evaluation and the next state by `exec_nop`. -/
theorem nopCompletes : Obligations.NopCompletes := ⟨by decide, by decide, exec_nop⟩

/-! ## SESSION_START and SESSION_END -/

/-- `Close` where the link is open (R282, R283). -/
def closeEvents (linkOpen : Bool) : List Event := if linkOpen then [.closed] else []

theorem closeIfOpen_eq (s : State) :
    closeIfOpen s = { s with linkOpen := false, trace := s.trace ++ closeEvents s.linkOpen } := by
  unfold closeIfOpen closeEvents
  cases opened : s.linkOpen with
  | true => rfl
  | false => apply State.eq_of_fields <;> simp [opened]

/-- `Open` where the LINK's next answer is given (60_exceptions.md R391). -/
theorem openLink_of_opens {s : State} {ok : Bool} {later : List Bool} (opens : s.link.opens = ok :: later) (p : Bytes) :
    openLink p s =
      { s with linkOpen := ok, link := { s.link with opens := later }, trace := s.trace ++ [.opened p ok] } := by
  have answer : openAnswer s = ok := by simp [openAnswer, opens]
  apply State.eq_of_fields <;> simp [answer, opens]

/-- What SESSION_START's body leaves, by the LINK's answer `ok` (R282). -/
theorem sessionStartBody_eq {s : State} {ok : Bool} {later : List Bool} (opens : s.link.opens = ok :: later) (tp : Bytes) :
    sessionStartBody tp s =
      { s with
        linkOpen := ok, savedParams := some tp, toggle := false, tx := { s.tx with state := .idle }
        link := { s.link with opens := later }, trace := s.trace ++ (closeEvents s.linkOpen ++ [.opened tp ok])
        res := if ok then s.res.succeeded else s.res.failed .channelError } := by
  have closed : ((closeIfOpen s).setSavedParams (some tp)).link.opens = ok :: later := by rw [closeIfOpen_eq]; exact opens
  rw [sessionStartBody, openLink_of_opens closed, closeIfOpen_eq, ← List.append_assoc]
  cases ok <;> rfl

/-- What SESSION_END's body leaves (R283). -/
theorem sessionEndBody_eq (s : State) :
    sessionEndBody s =
      { s with linkOpen := false, savedParams := none, trace := s.trace ++ closeEvents s.linkOpen, res := s.res.succeeded } := by
  rw [sessionEndBody, closeIfOpen_eq]
  rfl

/-- Settles O13: `sessionStartBody_eq` and the response after it, for either answer of the LINK. -/
theorem sessionStartCompletes : Obligations.SessionStartCompletes := by
  intro s tp ok later opens
  refine ⟨?word, ?next⟩
  case word => rw [encode, show commandWord 0x5 false = 0x05 by decide]; rfl
  case next =>
    have accepted : (accept s).link.opens = ok :: later := opens
    simp only [exec, execSessionStart, command, sessionStartBody_eq accepted, Host.Outcome.next.injEq]
    rw [respond_eq_ended (s := s) (events := closeEvents s.linkOpen ++ [.opened tp ok]) rfl]
    rfl

/-- Settles O14: `sessionEndBody_eq` and the response after it. -/
theorem sessionEndCompletes : Obligations.SessionEndCompletes := by
  refine ⟨by decide, fun s => ?_⟩
  simp only [exec, execSessionEnd, command, sessionEndBody_eq, Host.Outcome.next.injEq]
  exact respond_eq_ended (s := s) (events := closeEvents s.linkOpen) rfl

/-! ## CFG_WRITE -/

theorem exec_cfgWrite_some {s : State} {addr : Byte} {v : Word} {c : Cfg} (h : writeRegister addr v s.cfg = some c) :
    exec (.cfgWrite addr v) s = .next { s.ended [] s.res.succeeded with cfg := c } := by
  simp only [exec, execCfgWrite, command, cfgWriteBody, accept_cfg, h, Host.Outcome.next.injEq]
  exact respond_eq_ended (s := s) (events := []) (by simp)

theorem getLsbD_eq_decide (v : Word) (k : Nat) : v.getLsbD k = decide (v.toNat / 2 ^ k % 2 = 1) := by
  rw [← BitVec.testBit_toNat, Nat.testBit_eq_decide_div_mod_eq]

theorem extractLsb'_eq_ofNat (v : Word) (start len : Nat) :
    v.extractLsb' start len = BitVec.ofNat len (v.toNat / 2 ^ start) := by
  rw [BitVec.extractLsb', Nat.shiftRight_eq_div_pow]

/-- Settles O15: each RW register is the fields of the value at its address, and from 0x07 on there is none. -/
theorem cfgWriteCompletes : Obligations.CfgWriteCompletes := by
  intro s addr v
  refine ⟨?word, ?next⟩
  case word => rw [encode, show commandWord 0x7 false = 0x07 by decide]; rfl
  case next =>
    split
    case h_8 =>
      have above : 7 ≤ addr.toNat := by simp only [imp_false] at *; omega
      have notRW : 0x07 ≤ addr := by simpa [BitVec.le_def] using above
      exact exec_cfgWrite_none (writeRegister_eq_none notRW v s.cfg)
    all_goals
      rename_i address
      exact exec_cfgWrite_some (by
        simp only [writeRegister, address, getLsbD_eq_decide, extractLsb'_eq_ofNat, Nat.pow_zero, Nat.div_one])

/-! ## CFG_READ of the configuration and the constants -/

/-- A single bit as a register (10_state.md R41, R42, R47). -/
theorem bitWord_eq (b : Bool) : (bit b).setWidth 32 = BitVec.ofNat 32 b.toNat := by cases b <;> rfl

/-- `CFG_TOGGLE` (10_state.md R43). -/
theorem cfgToggleWord_eq (s : State) :
    (bit s.toggle ++ bit s.cfg.resetOnReconnect : BitVec (1 + 1)).setWidth 32 =
      BitVec.ofNat 32 (s.cfg.resetOnReconnect.toNat + 2 * s.toggle.toNat) := by
  cases s.toggle <;> cases s.cfg.resetOnReconnect <;> rfl

/-- `CFG_RETRY` (10_state.md R44). -/
theorem cfgRetryWord_eq (c : Cfg) :
    cfgRetryWord c = BitVec.ofNat 32 (c.maxRetries.toNat + 2 ^ 8 * c.backoffLinear.toNat + 2 ^ 16 * c.backoffUnitMs.toNat) := by
  apply eq_ofNat_of_toNat
  simp only [cfgRetryWord, toNat_append_eq_add, bit_toNat, BitVec.toNat_ofNat]
  omega

/-- `CONST_OPC` (10_state.md R48). -/
theorem constOpcWord_eq (b : Build) :
    constOpcWord b = BitVec.ofNat 32 (0x10 + 2 ^ 8 * b.opcCont.toNat + 2 ^ 16 * b.opcRemote.toNat) := by
  apply eq_ofNat_of_toNat
  have ping : Config.opcPing.toNat = 0x10 := rfl
  simp only [constOpcWord, ping, toNat_append_eq_add, BitVec.toNat_ofNat]
  omega

/-- `CONST_STATUS` (10_state.md R49). -/
theorem constStatusWord_eq (b : Build) :
    constStatusWord b = BitVec.ofNat 32 (b.stOkay.toNat + 2 ^ 8 * b.stBlockCksum.toNat + 2 ^ 16 * b.stFwCksum.toNat +
      2 ^ 24 * b.stNotActive.toNat) := by
  apply eq_ofNat_of_toNat
  simp only [constStatusWord, toNat_append_eq_add]
  omega

/-- Settles O16: each register's word is its fields as a number, and the constants lie above the RW registers. -/
theorem cfgReadsConfiguration : Obligations.CfgReadsConfiguration := by
  intro s
  refine ⟨?profile, ?echo, ?toggle, ?retry, ?tBase, ?tExt, ?numbering, ?opcodes, ?statuses, ?readOnly⟩
  case profile => exact readsAs_of_readRegister (congrArg some (bitWord_eq s.cfg.fast))
  case echo => exact readsAs_of_readRegister (congrArg some (bitWord_eq s.cfg.glitchyEn))
  case toggle => exact readsAs_of_readRegister (congrArg some (cfgToggleWord_eq s))
  case retry => exact readsAs_of_readRegister (congrArg some (cfgRetryWord_eq s.cfg))
  case tBase => exact readsAs_of_readRegister (congrArg some (BitVec.ofNat_toNat ..).symm)
  case tExt => exact readsAs_of_readRegister (congrArg some (BitVec.ofNat_toNat ..).symm)
  case numbering => exact readsAs_of_readRegister (congrArg some (bitWord_eq s.cfg.oneToN))
  case opcodes => exact readsAs_of_readRegister (congrArg some (constOpcWord_eq s.build))
  case statuses => exact readsAs_of_readRegister (congrArg some (constStatusWord_eq s.build))
  case readOnly => exact ⟨cannotWrite_of_le (by decide) s, cannotWrite_of_le (by decide) s⟩

end Sys2Proof.Machine
end

