-- ==== Sys2Proof/Proofs/Wrappers.lean ====
section
/-! The wire-command wrappers (44_wire_commands.md): each is its range check and then one TRANSCEIVE, as its form says, and the
reply to a wire opcode answers the byte that was sent. -/

namespace Sys2Proof.Machine

/-! ## A wrapper is its form (R310, R311) -/

theorem blockHeader_eq_headerBytes (idx : Half) (d : Bytes) : blockHeader idx d = headerBytes idx.toNat d := by
  rw [← blockHeader_ofNat, BitVec.ofNat_toNat, BitVec.setWidth_eq]

section
variable {s : State} {i : Instr} {f : WireForm}

/-- Every wrapper is the template with the range check, opcode, parameters and timeout of its form. -/
theorem exec_of_wireForm (form : wireForm s.build i = some f) :
    exec i s = checkedWrapper f.inRange f.ign f.opcode f.params f.timeout s := by
  cases i
  case ping => cases form; rfl
  case continueDownload =>
    cases form
    simp only [exec, execContinueDownload, blockHeader_eq_headerBytes]
  case getVersions | getBatteryPower | stopAllTasks | deleteAllTasks | deleteAllSubs | goIntoBootMode | unlockFirmware
      | remote | selectProgram | beginTaskDownload | beginFirmwareDownload | playTone | playSystemSound =>
    cases form
    simp only [WireForm.ofRow, ← paramBytes_eq_layoutBytes, List.map_cons, List.map_nil, BitVec.ofNat_toNat,
      BitVec.setWidth_eq]
    rfl
  all_goals cases form

/-- A wrapper in range leaves what its TRANSCEIVE leaves, the response's result as the host's. -/
theorem exec_of_transceive {u : State} (form : wireForm s.build i = some f) (inRange : f.inRange = true)
    (transceive : exec (.transceive f.ign f.opcode f.params f.timeout) s = .next u) :
    exec i s = .next (u.withHostResult u.res.ok u.res.err u.res.payload) := by
  rw [exec_of_wireForm form, inRange]
  cases transceive
  rfl

/-- A wrapper out of range issues no command. -/
theorem exec_out_of_range (form : wireForm s.build i = some f) (out : f.inRange = false) :
    exec i s = .next (s.withHostResult false .outOfRangeParameter none) := by
  rw [exec_of_wireForm form, out]
  rfl

/-! ## A row whose frame can be encoded (40_frame_codec.md R163, R166) -/

/-- Every regular opcode of the default table declares the number of its parameters. -/
theorem count_of_defaultTable {b : Build} (table : b.wire = Config.wireTable) (form : wireForm b i = some f) :
    f.opcode = b.opcCont ∨ f.opcode = b.opcRemote ∨ f.params.length = f.opcode.toNat % 8 := by
  cases i
  case continueDownload => cases form; exact .inl rfl
  case remote => cases form; exact .inr (.inl rfl)
  case ping => cases form; exact .inr (.inr (show 0 = (0x10 : Byte).toNat % 8 by decide))
  case getVersions | getBatteryPower | stopAllTasks | deleteAllTasks | deleteAllSubs | goIntoBootMode | unlockFirmware
      | selectProgram | beginTaskDownload | beginFirmwareDownload | playTone | playSystemSound =>
    cases form
    right; right
    simp only [WireForm.ofRow, layoutBytes, List.length_map, table]
    decide
  all_goals cases form

/-- `MAX_PARAMS` is at least 7 (R166). -/
theorem withinMaxParams_of_le_seven (b : Build) {n : Nat} (short : n ≤ 7) : withinMaxParams b n = true := by
  unfold withinMaxParams
  split
  · rfl
  · exact decide_eq_true (by omega)

theorem framable_of_sendable {b : Build} (form : wireForm b i = some f) (sendable : f.sendable b) :
    framable b f.opcode f.params.length = true := by
  rcases sendable with ⟨table, short⟩ | framed
  · have count := count_of_defaultTable table form
    simpa [framable, withinMaxParams_of_le_seven b short, or_assoc] using count
  · exact framed

/-! ## Wrappers that complete -/

/-- A wrapper whose LINK returns the echo and a reply completes with the reply's payload (41_transceiver.md R215). -/
theorem exec_of_reply {d : Bytes} {w : List Bool} {r : List ReadAnswer} (form : wireForm s.build i = some f)
    (inRange : f.inRange = true) (replies : f.ign = false) (sendable : f.sendable s.build)
    (link : s.linkGives (s.echoAndReply f.opcode f.params d) w r) :
    exec i s = .next (s.wrapped false f.opcode f.params f.timeout (s.echoAndReply f.opcode f.params d) w r
      (some (s.replyPayload f.opcode d))) := by
  obtain ⟨completes, -⟩ :=
    transceiveRoundTrip s f.opcode f.params d f.timeout w r (framable_of_sendable form sendable)
  exact exec_of_transceive form inRange (by rw [replies]; exact completes link)

/-- A wrapper that ignores its reply completes with payload NULL (41_transceiver.md R209). -/
theorem exec_of_ignored_reply {a : ReadAnswer} {w : List Bool} {r : List ReadAnswer} (form : wireForm s.build i = some f)
    (inRange : f.inRange = true) (ignores : f.ign = true) (sendable : f.sendable s.build) (link : s.linkGives a w r) :
    exec i s = .next (s.wrapped true f.opcode f.params f.timeout a w r none) := by
  have completes :=
    transceiveIgnoringReply s f.opcode f.params f.timeout a w r (framable_of_sendable form sendable) link
  exact exec_of_transceive form inRange (by rw [ignores]; exact completes)

end

/-- Settles O46: none of the six checks a range or ignores its reply. -/
theorem plainWrappersComplete : Obligations.PlainWrappersComplete := by
  intro s t d w r i f mem form sendable a link
  simp only [List.mem_cons, List.not_mem_nil, or_false] at mem
  rcases mem with rfl | rfl | rfl | rfl | rfl | rfl <;> cases form <;> exact exec_of_reply rfl rfl rfl sendable link

/-- Settles O47: each of the three ignores its reply. -/
theorem ignoringWrappersComplete : Obligations.IgnoringWrappersComplete := by
  intro s msg t a w r i f mem form sendable link
  simp only [List.mem_cons, List.not_mem_nil, or_false] at mem
  rcases mem with rfl | rfl | rfl <;> cases form <;> exact exec_of_ignored_reply rfl rfl rfl sendable link

/-- Settles O48: the three expect a reply. -/
theorem downloadWrappersComplete : Obligations.DownloadWrappersComplete := by
  intro s task size idx addr cs t data d w r i f mem form inRange sendable a link
  simp only [List.mem_cons, List.not_mem_nil, or_false] at mem
  rcases mem with rfl | rfl | rfl <;> cases form <;> exact exec_of_reply rfl inRange rfl sendable link

/-- Settles O49: the three expect a reply. -/
theorem checkedWrappersComplete : Obligations.CheckedWrappersComplete := by
  intro s slot freq dur sound t d w r i f mem form inRange sendable a link
  simp only [List.mem_cons, List.not_mem_nil, or_false] at mem
  rcases mem with rfl | rfl | rfl <;> cases form <;> exact exec_of_reply rfl inRange rfl sendable link

/-- Settles O50: each operand fails the range check of its wrapper's form. -/
theorem wrappersOutOfRange : Obligations.WrappersOutOfRange := by
  intro s t
  refine ⟨fun slot out => ?slot, fun task size out => ?size, fun idx data out => ?block, fun freq dur out => ?tone,
    fun sound out => ?sound, rfl⟩
  case slot =>
    refine exec_out_of_range rfl (decide_eq_false ?_)
    rcases out with ⟨fromOne, zero⟩ | above
    · rw [if_pos fromOne]; omega
    · omega
  all_goals exact exec_out_of_range rfl (decide_eq_false (by omega))

/-- `SLOT_MIN` is 0 or 1 (R315). -/
theorem slotInRange_eq (fromOne : Bool) (slot : Nat) :
    decide ((if fromOne then 1 else 0) ≤ slot ∧ slot ≤ 5) = decide (slot ≤ 5 ∧ (fromOne = true → 1 ≤ slot)) := by
  cases fromOne <;> simp [and_comm]

/-- Settles O51: a wrapper is its form, and with the default table the form has the bytes of R312 to R326. -/
theorem wrappersAreTransceives : Obligations.WrappersAreTransceives := by
  refine ⟨fun _ _ _ _ => exec_of_transceive, ?_⟩
  intro s u slot size freq dur sound task idx addr cs msg t data i inRange ign opc params table opcCont opcRemote loByte
    hiByte row valid transceive
  have form : wireForm s.build i = some ⟨inRange, ign, opc, params, t⟩ := by
    change s.build.wire = Config.wireTable at table
    change s.build.opcCont = 0x45 at opcCont
    change s.build.opcRemote = 0xD2 at opcRemote
    simp only [List.mem_cons, List.not_mem_nil, or_false] at row
    rcases row with e | e | e | e | e | e | e | e | e | e | e | e | e | e | e <;> cases e <;>
      simp only [wireForm, WireForm.ofRow, slotInRange_eq, table, opcCont, opcRemote] <;>
      simp [layoutBytes, Config.wireTable, Config.oddPrimes, loByte, hiByte]
  exact exec_of_transceive form valid transceive

/-! ## The reply answers the toggle (R329) -/

/-- Inserting the toggle into an opcode whose bit 3 is clear adds 8. -/
theorem sentOpcode_toNat {opc : Byte} (clear : opc.getLsbD 3 = false) (toggle : Bool) :
    (sentOpcode toggle opc).toNat = opc.toNat + (if toggle then 8 else 0) := by
  cases toggle
  case false => simp [sentOpcode]
  case true =>
    have disjoint : opc &&& BitVec.twoPow 8 3 = 0 := by
      rw [BitVec.and_twoPow, clear]
      rfl
    have below : opc.toNat / 8 % 2 = 0 := by
      simpa [BitVec.getLsbD, Nat.testBit_eq_decide_div_mod_eq] using clear
    calc (sentOpcode true opc).toNat
      _ = (opc + 8).toNat := congrArg BitVec.toNat (BitVec.add_eq_or_of_and_eq_zero opc _ disjoint).symm
      _ = opc.toNat + 8 := by bv_omega

/-- The complements of the two forms of an opcode differ. -/
theorem toNat_not_sentOpcode_not_ne {opc : Byte} (clear : opc.getLsbD 3 = false) (toggle : Bool) :
    (~~~(sentOpcode (!toggle) opc)).toNat ≠ 0xFF - (sentOpcode toggle opc).toNat := by
  have fits := (sentOpcode true opc).isLt
  rw [sentOpcode_toNat clear, if_pos rfl] at fits
  rw [BitVec.toNat_not, sentOpcode_toNat clear, sentOpcode_toNat clear]
  cases toggle <;> simp only [Bool.not_true, Bool.not_false, Bool.false_eq_true, if_true, if_false] <;> omega

/-- Settles O52: the reply's first byte decides the last of the reply checks (O32). -/
theorem replyAnswersTheToggle : Obligations.ReplyAnswersTheToggle := by
  intro s opc reply params d t w r mem op
  have clear : opc.getLsbD 3 = false := by revert opc; decide
  refine ⟨sentOpcode_toNat clear s.toggle, toNat_not_sentOpcode_not_ne clear s.toggle, ?reply⟩
  case reply =>
    intro ok a link
    obtain ⟨-, -, mismatch, success⟩ := transceiveReplyChecks s opc params _ _ t w r ok link (.inl rfl)
    have payload := afterPreamble_wireFrame s.cfg.fast reply d
    have answers : (reply :: d).head? = some (~~~op) ↔ reply.toNat = 0xFF - op.toNat := by
      simp [← BitVec.toNat_inj, BitVec.toNat_not]
    split
    case isTrue answer => exact success _ payload (answers.2 answer)
    case isFalse other => exact mismatch _ payload (mt answers.1 other)

end Sys2Proof.Machine
end

