-- ==== Sys2Proof/Proofs/HostPrograms.lean ====
section
/-! The HOST's download programs (45_host_sequences.md): the firmware checksum, the transfer step and its report, and a program
whose first step fails. -/

namespace Sys2Proof.Machine

/-! ## The firmware checksum (R341) -/

theorem fwChecksum_toNat (img : Bytes) :
    (fwChecksum img).toNat = ((img.take 19456).map BitVec.toNat).sum % 65536 := by
  rw [fwChecksum, sumBytes_eq_sum, BitVec.toNat_ofNat]
  rfl

/-- Settles O57: the cap leaves 19456 bytes of the 20000, each 1. -/
theorem firmwareChecksum : Obligations.FirmwareChecksum := by
  refine ⟨fwChecksum_toNat, BitVec.eq_of_toNat_eq ?_⟩
  rw [fwChecksum_toNat, List.take_replicate, List.map_replicate, List.sum_replicate]
  rfl

/-! ## Verdicts -/

theorem commandVerdict_of_ok {t : State} (ok : t.res.ok = true) : commandVerdict t = none := by
  simp [commandVerdict, ok]

theorem commandVerdict_of_failed {t : State} (failed : t.res.ok = false) :
    commandVerdict t = some { err := t.res.err } := by
  simp [commandVerdict, failed]

theorem wrapperVerdict_of_failed {t : State} {e : ErrCode} {p : Option Bytes} (failed : t.hostRes = some ⟨false, e, p⟩) :
    wrapperVerdict t = some { err := e } := by
  simp [wrapperVerdict, failed]

/-! ## The transfer step (R353) -/

theorem ErrCode.ofTransferAbort_iff {e : ErrCode} :
    e.ofTransferAbort = true ↔ e = .blockTransferFailed ∨ e = .linkLost := by
  simp [ErrCode.ofTransferAbort]

/-- A CFG_READ writes the value it answers and leaves the block engine. -/
theorem State.readsAs.outcome {s t : State} {addr : Byte} {n : Nat} (reads : s.readsAs addr n)
    (read : exec (.cfgRead addr) s = .next t) : t.bt = s.bt ∧ t.res.value = BitVec.ofNat 32 n := by
  cases reads.symm.trans read
  exact ⟨rfl, rfl⟩

/-- The two reads after a block-transfer abort answer BT_FAIL_INDEX and BT_FAIL_ORD of the aborted transfer. -/
theorem failedBlock_values {t u v : State} (index : exec (.cfgRead 0x14) t = .next u)
    (ord : exec (.cfgRead 0x15) u = .next v) :
    u.res.value = BitVec.ofNat 32 t.bt.failIndex.toNat ∧ v.res.value = BitVec.ofNat 32 t.bt.failOrd.toNat := by
  obtain ⟨-, -, -, readsIndex, -⟩ := cfgReadsBlockEngine t
  obtain ⟨-, -, -, -, readsOrd, -⟩ := cfgReadsBlockEngine u
  obtain ⟨bt, indexValue⟩ := readsIndex.outcome index
  obtain ⟨-, ordValue⟩ := readsOrd.outcome ord
  exact ⟨indexValue, bt ▸ ordValue⟩

/-- After an abort the program has its error with the failed block as the two reads answer it. -/
theorem readFailedBlock_of_abort {t u v : State} {stage : Stage} {reports : List StageReport} {e : ErrCode}
    (abort : e.ofTransferAbort = true) (index : exec (.cfgRead 0x14) t = .next u) (ord : exec (.cfgRead 0x15) u = .next v) :
    readFailedBlock ⟨t, stage, some { err := e }, reports⟩ =
      .next ⟨v, stage,
        some { err := e, failed := some ⟨BitVec.ofNat 32 t.bt.failIndex.toNat, BitVec.ofNat 32 t.bt.failOrd.toNat⟩ },
        reports⟩ := by
  have first (error : Option HostError) :
      HostRun.run (.cfgRead 0x14) ⟨t, stage, error, reports⟩ = .next ⟨u, stage, error, reports⟩ :=
    HostRun.run_next (h := ⟨t, stage, error, reports⟩) index
  have second (error : Option HostError) :
      HostRun.run (.cfgRead 0x15) ⟨u, stage, error, reports⟩ = .next ⟨v, stage, error, reports⟩ :=
    HostRun.run_next (h := ⟨u, stage, error, reports⟩) ord
  obtain ⟨indexValue, ordValue⟩ := failedBlock_values index ord
  simp only [readFailedBlock, abort, if_true, first, second, andThen_next, indexValue, ordValue]

/-- The errors of an abort come from an aborted transfer: the start checks refuse with other ones (42_block_transfer.md R241,
R251, R252). -/
theorem exec_sendBuffer_aborted {s t : State} {ext : Bool} {bsize : Half} {data : Bytes}
    (sent : exec (.sendBuffer ext bsize data) s = .next t) (abort : t.res.err.ofTransferAbort = true) :
    t.bt.state = .aborted := by
  obtain ⟨closed, outOfRange⟩ := sendBufferRefused s ext bsize data
  cases link : s.linkOpen with
  | false =>
    cases (closed link).symm.trans sent
    exact absurd abort Bool.false_ne_true
  | true =>
    by_cases started : s.transferable bsize data
    · obtain ⟨-, -, -, -, ⟨-, -, noErr, -⟩ | ⟨aborted, -⟩⟩ := sendBufferEnds s t ext bsize data sent started
      · rw [noErr] at abort
        exact absurd abort Bool.false_ne_true
      · exact aborted
    · cases (outOfRange link started).symm.trans sent
      exact absurd abort Bool.false_ne_true

section
variable {h : HostRun} {ext : Bool} {bsize : Half} {data : Bytes} {t : State}

/-- A failed transfer step goes on to the reads of its failed block. -/
theorem transferStep_of_failed (sent : exec (.sendBuffer ext bsize data) h.core = .next t) (failed : t.res.ok = false) :
    transferStep ext bsize data h =
      readFailedBlock ⟨t, .aborted, some { err := t.res.err }, h.reports ++ [⟨h.stage, .transfer, false⟩]⟩ := by
  rw [transferStep, hostCommand_next sent, commandVerdict_of_failed failed, andThen_next]

theorem transferStep_of_ok (noError : h.error = none) (sent : exec (.sendBuffer ext bsize data) h.core = .next t)
    (ok : t.res.ok = true) :
    transferStep ext bsize data h =
      .next { h with core := t, reports := h.reports ++ [⟨h.stage, .transfer, true⟩] } := by
  rw [transferStep, hostCommand_next sent, commandVerdict_of_ok ok, andThen_next]
  exact readFailedBlock_skips (by simp [noError])

end

/-- Settles O60: the report is the verdict on SEND_BUFFER, and its error tells an abort from a refusal. -/
theorem transferStepReports : Obligations.TransferStepReports := by
  intro h ext bsize data t u v noError sent index ord
  cases ok : t.res.ok with
  | true => rw [transferStep_of_ok noError sent ok, if_pos rfl]
  | false =>
    rw [transferStep_of_failed sent ok, if_neg Bool.false_ne_true]
    cases abort : t.res.err.ofTransferAbort with
    | true =>
      rw [if_pos ⟨exec_sendBuffer_aborted sent abort, ErrCode.ofTransferAbort_iff.1 abort⟩,
        readFailedBlock_of_abort abort index ord]
    | false =>
      have noAbort : ¬(t.res.err = .blockTransferFailed ∨ t.res.err = .linkLost) := by
        simp [← ErrCode.ofTransferAbort_iff, abort]
      rw [if_neg fun both => noAbort both.2, readFailedBlock_skips]
      rintro e ⟨⟩
      exact abort

/-! ## A step that fails ends the program (R340) -/

/-- A step that is one wrapper, where the wrapper fails. -/
theorem hostCommand_of_failed {name : StepName} {i : Instr} {h : HostRun} {t : State} {e : ErrCode} {p : Option Bytes}
    (ran : exec i h.core = .next t) (failed : t.hostRes = some ⟨false, e, p⟩) :
    hostCommand name i wrapperVerdict h =
      .next ⟨t, .aborted, some { err := e }, h.reports ++ [⟨h.stage, name, false⟩]⟩ := by
  rw [hostCommand_next ran, wrapperVerdict_of_failed failed]

/-- A step that is a wrapper tried some times, where the last attempt fails too. -/
theorem hostRetries_of_failed {name : StepName} {i : Instr} {n : Nat} {h : HostRun} {t : State} {e : ErrCode}
    {p : Option Bytes} (tried : tryUpTo i n h.core = .next t) (failed : t.hostRes = some ⟨false, e, p⟩) :
    hostRetries name i n h =
      .next ⟨t, .aborted, some { err := e }, h.reports ++ [⟨h.stage, name, false⟩]⟩ := by
  simp only [hostRetries, tried, HostRun.onCore, andThen_next, HostRun.conclude, wrapperVerdict_of_failed failed]
  rfl

/-- Settles O58: no slot above 5 is in range (44_wire_commands.md R315), and no step follows the failed one. -/
theorem programDownloadSlotSix : Obligations.ProgramDownloadSlotSix := by
  intro s t chunks
  have refused (t : Half) : exec (.selectProgram 6 t) s = .next (s.withHostResult false .outOfRangeParameter none) := by
    obtain ⟨slot, -⟩ := wrappersOutOfRange s t
    exact slot 6 (.inr (by decide))
  have selected : hostCommand .selectProgram (.selectProgram 6 s.cfg.tBaseMs) wrapperVerdict ⟨s, .preparing, none, []⟩ =
      .next ⟨s.withHostResult false .outOfRangeParameter none, .aborted, some { err := .outOfRangeParameter },
        [⟨.preparing, .selectProgram, false⟩]⟩ :=
    hostCommand_of_failed (h := ⟨s, .preparing, none, []⟩) (refused _) rfl
  refine ⟨refused t, ?_⟩
  simp only [programDownload, HostRun.enter, HostRun.start, thenDo_running (h := ⟨s, .preparing, none, []⟩) nofun, selected,
    thenDo_aborted]

/-! ## Wrappers on a closed link (R343) -/

/-- The result registers after an exchange on a closed link (41_transceiver.md R203). -/
def Res.onClosedLink (r : Res) : Res := { r.failed .channelError with payload := none }

/-- `t` comes after `n` failed wrappers, one at least, on the closed link of `s`: their responses are the only events. -/
structure FailedClosed (n : Nat) (s t : State) : Prop where
  closed : t.linkOpen = false
  build : t.build = s.build
  toggle : t.toggle = s.toggle
  trace : t.trace = s.trace ++ List.replicate n (.response (responseOf s.res.onClosedLink))
  res : t.res = s.res.onClosedLink
  hostRes : t.hostRes = some ⟨false, .channelError, none⟩

theorem FailedClosed.trans {m n : Nat} {s u t : State} (first : FailedClosed m s u) (rest : FailedClosed n u t) :
    FailedClosed (m + n) s t := by
  have same : u.res.onClosedLink = s.res.onClosedLink := by
    rw [first.res]
    rfl
  refine ⟨rest.closed, rest.build.trans first.build, rest.toggle.trans first.toggle, ?_, rest.res.trans same, rest.hostRes⟩
  rw [rest.trace, first.trace, same, List.append_assoc, List.replicate_append_replicate]

section
variable {s : State} {i : Instr} {f : WireForm}

/-- One wrapper in range on a closed link fails as its TRANSCEIVE does. -/
theorem exec_wrapper_closed (form : wireForm s.build i = some f) (inRange : f.inRange = true)
    (closed : s.linkOpen = false) : ∃ t, exec i s = .next t ∧ FailedClosed 1 s t :=
  ⟨_, exec_of_transceive form inRange (transceiveOnClosedLink s f.ign f.opcode f.params f.timeout closed),
    closed, rfl, rfl, congrArg (· ++ _) (List.append_nil s.trace), rfl, rfl⟩

/-- Every attempt of a wrapper on a closed link is made, and fails (R343, R344). -/
theorem tryUpTo_closed {n : Nat} (form : wireForm s.build i = some f) (inRange : f.inRange = true)
    (closed : s.linkOpen = false) : ∃ t, tryUpTo i (n + 1) s = .next t ∧ FailedClosed (n + 1) s t := by
  induction n generalizing s with
  | zero =>
    obtain ⟨u, ran, failed⟩ := exec_wrapper_closed form inRange closed
    exact ⟨u, by simp only [tryUpTo, ran, failed.hostRes], failed⟩
  | succ n ih =>
    obtain ⟨u, ran, failed⟩ := exec_wrapper_closed form inRange closed
    obtain ⟨t, tried, all⟩ := ih (failed.build ▸ form) failed.closed
    refine ⟨t, ?_, Nat.add_comm 1 (n + 1) ▸ failed.trans all⟩
    rw [tryUpTo, ran]
    simp only [failed.hostRes, tried]

end

/-- Settles O59: the pings are the first step, and no step follows their failure. -/
theorem firmwareDownloadOnClosedLink : Obligations.FirmwareDownloadOnClosedLink := by
  intro s blockSize ext img closed
  obtain ⟨t, tried, pings⟩ :=
    tryUpTo_closed (n := 2) (s := s) (i := .ping s.cfg.tBaseMs) rfl rfl closed
  have pinged : hostRetries .ping (.ping s.cfg.tBaseMs) Config.pingAttemptsFw (HostRun.start s) =
      .next ⟨t, .aborted, some { err := .channelError }, [⟨.connecting, .ping, false⟩]⟩ :=
    hostRetries_of_failed (h := HostRun.start s) tried pings.hostRes
  have aborted : firmwareDownload blockSize ext img s =
      .next ⟨t, .aborted, some { err := .channelError }, [⟨.connecting, .ping, false⟩]⟩ := by
    simp only [firmwareDownload, pinged, thenDo_aborted]
  exact ⟨_, aborted, rfl, rfl, rfl, pings.toggle, eventsSince_eq pings.trace, pings.hostRes⟩

end Sys2Proof.Machine
end

