-- ==== Sys2Proof/Proofs/Exceptions.lean ====
section
/-! The LINK that never answers one of a command's calls (60_exceptions.md R391): the model's fault and its countdown (log 12). -/

namespace Sys2Proof.Machine

/-! ## What the countdown makes of a command -/

/-- The step that takes an instruction is the instruction and what surrounds it, whatever the LINK will answer. -/
theorem step_of_instr {s t : State} {r : Request} {later : List Request} {i : Instr} (idle : s.cmdState = .idle)
    (input : s.resetInput ≠ .betweenCommands) (pend : s.pending = r :: later)
    (decoded : decode r.port r.bytes = .instr i []) (ran : exec i (s.setPending later) = .next t) :
    step s = settle (s.setPending later) t := by
  rw [step_request idle input pend, readRequest_of_instr decoded]
  simp only [ran, settleResult]

section
variable {before after : State} {k : Nat}

/-- The call that the LINK never answers is among those of the command. -/
theorem settle_hangs (input : before.resetInput = .notAsserted) (hang : before.hangIn = some k)
    (calls : k < linkCalls (after.eventsSince before)) : settle before after = .fault .linkNeverAnswers := by
  have hangs : hangsAmong (newEvents before after) before = true := by
    simp only [hangsAmong, hang]
    exact decide_eq_true calls
  simp only [settle, input, hangs, if_true]

/-- The LINK answers every call of the command, and the command's calls are off the countdown. -/
theorem settle_answered (input : before.resetInput = .notAsserted) (hang : before.hangIn = some k)
    (keep : after.hangIn = before.hangIn) (calls : linkCalls (after.eventsSince before) ≤ k) :
    settle before after = .next { after with hangIn := some (k - linkCalls (after.eventsSince before)) } := by
  have answers : hangsAmong (newEvents before after) before = false := by
    simp only [hangsAmong, hang]
    exact decide_eq_false (Nat.not_lt.2 calls)
  simp only [settle, input, answers, Bool.false_eq_true, if_false, spendCalls, keep, hang, Option.map_some]
  rfl

end

/-- Settles O11: the step counts the instruction's calls against the countdown, which no instruction writes (`exec_keeps`). -/
theorem linkThatNeverAnswers : Obligations.LinkThatNeverAnswers := by
  intro s r later i k t idle input hang pend decoded ran
  have noReset : s.resetInput ≠ .betweenCommands := by simp [input]
  rw [step_of_instr idle noReset pend decoded ran]
  exact ⟨settle_hangs (before := s.setPending later) input hang,
    settle_answered (before := s.setPending later) input hang (exec_keeps ran).hangIn⟩

end Sys2Proof.Machine
end

