-- ==== Sys2Proof/Proofs/FrameBound.lean ====
section
/-! How many frames a transfer writes (70_reset_and_hazards.md R411): two for each attempt of a block, the attempt's own and its
probe's, and at most MAX_RETRIES + 1 attempts for each block, whatever the LINK answers. -/

namespace Sys2Proof.Machine

/-! ## Stages with a bound on their frames -/

/-- What a stage adds, with at most `frames` frames, whatever it reports. -/
def WritesAtMost (frames : Nat) (s t : State) : Prop := ∃ ps, Adds frames ps s t

section
variable {m n : Nat} {s t u : State}

theorem Adds.writesAtMost {ps : List (BlockOrdinal × BlockOrdinal × Word)} (h : Adds m ps s t) : WritesAtMost m s t := ⟨ps, h⟩

theorem WritesAtMost.trans (h : WritesAtMost m s t) (g : WritesAtMost n t u) : WritesAtMost (m + n) s u := by
  obtain ⟨_, h⟩ := h
  obtain ⟨_, g⟩ := g
  exact (h.trans g).writesAtMost

theorem WritesAtMost.weaken (h : WritesAtMost m s t) (le : m ≤ n) : WritesAtMost n s t := by
  obtain ⟨_, h⟩ := h
  exact (h.weaken le).writesAtMost

/-- A stage with no event and no change of TOGGLE or of the configuration writes no frame. -/
theorem WritesAtMost.same (trace : t.trace = s.trace) (toggle : t.toggle = s.toggle) (cfg : t.cfg = s.cfg) :
    WritesAtMost 0 s t := (Adds.same trace toggle cfg).writesAtMost

theorem WritesAtMost.cfg (h : WritesAtMost m s t) : t.cfg = s.cfg := by
  obtain ⟨_, h⟩ := h
  exact h.cfg

end

/-! ## One block -/

theorem abort_writesAtMost (e : ErrCode) (s : State) : WritesAtMost 0 s (abort e s) := .same rfl rfl rfl

/-- A failed attempt writes its frame and, where its exchange failed, the probe's (42_block_transfer.md R248, R249). -/
theorem AttemptFailed.writesAtMost {params : Bytes} {tmo : Half} {s v : State} (h : AttemptFailed (attempt params tmo s) v) :
    WritesAtMost 2 s v := by
  have attempted : WritesAtMost 1 s (attempt params tmo s) := (attempt_adds params tmo s).writesAtMost
  rcases h with ⟨rfl, -⟩ | ⟨rfl, -⟩
  · exact attempted.weaken (by decide)
  · exact attempted.trans (probe_adds _).writesAtMost

/-- A block with `left` retries left takes at most `left + 1` attempts (42_block_transfer.md R248). -/
theorem blockLoop_writesAtMost (params : Bytes) (tmo : Half) (left : Nat) (s : State) :
    WritesAtMost (2 * (left + 1)) s (blockLoop params tmo left s).state := by
  induction left using Nat.strongRecOn generalizing s with
  | _ left ih =>
    have attempted : WritesAtMost 1 s (attempt params tmo s) := (attempt_adds params tmo s).writesAtMost
    rcases blockLoop_cases params tmo left s with
      ⟨-, acked⟩ | ⟨-, -, aborted⟩ | ⟨v, failed, ⟨rfl, aborted⟩ | ⟨l, rfl, again⟩⟩
    · rw [acked]
      have acknowledged : WritesAtMost 1 s (acknowledge (attempt params tmo s)) :=
        attempted.trans (acknowledge_adds _).writesAtMost
      exact acknowledged.weaken (by omega)
    · rw [aborted]
      have probed : WritesAtMost 2 s (probe (attempt params tmo s)) := attempted.trans (probe_adds _).writesAtMost
      exact (probed.trans (abort_writesAtMost _ _)).weaken (by omega)
    · rw [aborted]
      exact failed.writesAtMost.trans (abort_writesAtMost _ v)
    · rw [again]
      have retried : WritesAtMost 2 s (backoff v) := failed.writesAtMost.trans (backoff_adds v).writesAtMost
      exact (retried.trans (ih l (Nat.lt_succ_self l) _)).weaken (by omega)

/-! ## The blocks of a transfer -/

/-- Each block starts with all of MAX_RETRIES, which no block changes. -/
theorem sendBlocks_writesAtMost {tmo : Half} {n k : Nat} {s t : State} (h : sendBlocks tmo n k s = .next t) :
    WritesAtMost (2 * n * (s.cfg.maxRetries.toNat + 1)) s t := by
  induction n generalizing k s with
  | zero =>
    cases h
    exact (WritesAtMost.same (s := s) (t := completeTransfer s) rfl rfl rfl).weaken (Nat.zero_le _)
  | succ n ih =>
    have firstAndRest : 2 * (n + 1) * (s.cfg.maxRetries.toNat + 1) =
        2 * (s.cfg.maxRetries.toNat + 1) + 2 * n * (s.cfg.maxRetries.toNat + 1) := by ring
    rw [firstAndRest]
    unfold sendBlocks at h
    split at h
    · cases h
    · next idx params _ =>
      have first : WritesAtMost (2 * (s.cfg.maxRetries.toNat + 1)) s
          (blockLoop params tmo s.cfg.maxRetries.toNat (startBlock k idx s)).state := by
        have start : WritesAtMost 0 s (startBlock k idx s) := .same rfl rfl rfl
        exact (start.trans (blockLoop_writesAtMost ..)).weaken (Nat.zero_add _).le
      split at h
      · next u acked =>
        rw [acked, BlockEnd.state] at first
        have rest := ih h
        rw [first.cfg] at rest
        exact first.trans rest
      · next u aborted =>
        rw [aborted, BlockEnd.state] at first
        cases h
        exact first.weaken (Nat.le_add_right _ _)

/-- The response is no frame. -/
theorem framesWritten_respond {s u : State} (grows : s.trace <+: u.trace) :
    framesWritten ((respond u).eventsSince s) = framesWritten (u.eventsSince s) := by
  have events : (respond u).eventsSince s = u.eventsSince s ++ [.response (responseOf u.res)] := by
    apply eventsSince_eq
    rw [respond_trace, ← List.append_assoc, ← trace_eq_of_prefix grows]
  simp [events, framesWritten]

/-- Settles O45: the frames of its blocks, counted block by block, are all the frames of a transfer. -/
theorem transferFramesBounded : Obligations.TransferFramesBounded := by
  intro s t ext bsize data h started
  obtain ⟨u, sent, rfl⟩ := (exec_sendBuffer_next_iff started ext).1 h
  have start : WritesAtMost 0 s (transferStart ext bsize data (accept s)) := .same rfl rfl rfl
  obtain ⟨_, adds⟩ := start.trans (sendBlocks_writesAtMost sent)
  rw [framesWritten_respond adds.trace]
  exact adds.few.trans (Nat.zero_add _).le

end Sys2Proof.Machine
end

