-- ==== Sys2Proof/Proofs/Reset.lean ====
section
/-! Reset (70_reset_and_hazards.md R400 to R402): the state it leaves, whatever state it finds, and a command that it cuts at an
event boundary. -/

namespace Sys2Proof.Machine

/-! ## The state of R400 -/

/-- But for the timeouts and the constants, which the build sets, the register map after a reset does not depend on the state
it found. -/
theorem readRegister_resetCore (s : State) {a : Byte} (notOfBuild : a.toNat ∉ [0x04, 0x05, 0x08, 0x09]) :
    readRegister a (resetCore s) = readRegister a State.reset := by
  unfold readRegister
  split
  case h_5 addr | h_6 addr | h_8 addr | h_9 addr => simp [addr] at notOfBuild
  all_goals rfl

theorem readRegister_reset_eq_zero :
    ∀ a ∈ ([0x00, 0x02, 0x06, 0x10, 0x11, 0x12, 0x13, 0x14, 0x15, 0x16] : List Byte),
      a.toNat ∉ [0x04, 0x05, 0x08, 0x09] ∧ readRegister a State.reset = some 0 := by decide

/-- Every register of the table at its value, and the register map computed from them. -/
theorem resetCore_atReset (s : State) : (resetCore s).atReset := by
  refine ⟨rfl, rfl, rfl, rfl, rfl, rfl, fun _ => rfl, rfl, rfl, ?zeros, rfl, ?retry, ?tBaseMs, ?tExtMs⟩
  case zeros =>
    intro a mem
    obtain ⟨notOfBuild, zero⟩ := readRegister_reset_eq_zero a mem
    exact (readRegister_resetCore s notOfBuild).trans zero
  case retry => exact (readRegister_resetCore s (by decide)).trans (by decide)
  case tBaseMs => exact congrArg some (BitVec.ofNat_toNat 32 _).symm
  case tExtMs => exact congrArg some (BitVec.ofNat_toNat 32 _).symm

/-- The machine's first state is what a reset makes of it, so what holds after every reset holds of it. -/
theorem resetCore_reset : resetCore State.reset = State.reset := rfl

theorem step_of_reset_between {s : State} (input : s.resetInput = .betweenCommands) : step s = .next (resetCore s) := by
  simp only [step, input]

/-- Settles O9: a reset writes every register from the build-time constants, and the trace is none of the CORE's. -/
theorem resetState : Obligations.ResetState :=
  ⟨resetCore_reset ▸ resetCore_atReset State.reset,
    fun s input => ⟨resetCore s, step_of_reset_between input, resetCore_atReset s, rfl, rfl⟩⟩

/-- Settles O55: the first state is one that a reset leaves. -/
theorem invariantAtReset : Obligations.InvariantAtReset := by
  unfold Obligations.InvariantAtReset
  exact resetCore_reset ▸ resetCore_inv State.reset

/-! ## A command that a reset cuts (R402) -/

section
variable (events : List Event) (s : State)

theorem replay_trace : (replay events s).trace = s.trace ++ events := by
  induction events generalizing s with
  | nil => simp [replay]
  | cons e es ih => simpa [replay] using ih (note e s)

theorem replay_build : (replay events s).build = s.build := by
  induction events generalizing s with
  | nil => rfl
  | cons e es ih => exact ih (note e s)

theorem replay_pending : (replay events s).pending = s.pending := by
  induction events generalizing s with
  | nil => rfl
  | cons e es ih => exact ih (note e s)

end

section
variable {before after : State}

/-- The state that a reset finds after `n` events of a command: those events observed, and what no command writes. -/
theorem cutByReset_eq_resetCore (keeps : ExecKeeps before after) (n : Nat) :
    ∃ v, cutByReset n (newEvents before after) before after = resetCore v ∧ v.build = before.build ∧
      v.pending = before.pending ∧ v.trace = before.trace ++ (after.eventsSince before).take n := by
  unfold cutByReset
  split
  · exact ⟨_, rfl, replay_build .., replay_pending .., replay_trace ..⟩
  · next ended =>
    have all : (after.eventsSince before).take n = after.eventsSince before :=
      List.take_of_length_le (Nat.le_of_not_lt ended)
    rw [all]
    exact ⟨_, rfl, keeps.build, keeps.pending, trace_eq_of_prefix keeps.trace⟩

/-- Where the LINK answers, a reset during a command cuts it. -/
theorem settle_cut {n : Nat} (input : before.resetInput = .duringCommand n) (hang : before.hangIn = none) :
    settle before after = .next (cutByReset n (newEvents before after) before after) := by
  simp only [settle, input, hangsAmong, hang, Bool.false_eq_true, if_false]

end

/-- The response is the last event of a command, so before it there is none. -/
theorem isResponse_eq_false_of_mem_take {i : Instr} {s t : State} {n : Nat} (ran : exec i s = .next t)
    (cut : n < (t.eventsSince s).length) : ∀ e ∈ (t.eventsSince s).take n, e.isResponse = false := by
  rcases oneResponsePerCommand s t i ran with ⟨-, es, trace, quiet⟩ | ⟨-, rfl⟩
  · rw [List.append_assoc] at trace
    rw [eventsSince_eq trace] at cut ⊢
    rw [List.length_append, List.length_singleton] at cut
    rw [List.take_append_of_le_length (Nat.le_of_lt_succ cut)]
    exact fun e mem => quiet e (List.mem_of_mem_take mem)
  · have noEvent : (s.withHostResult false .outOfRangeParameter none).eventsSince s = [] :=
      eventsSince_eq (List.append_nil _).symm
    simp [noEvent] at cut

/-- Settles O10: a reset finds the CORE after the first `n` events of the command, and leaves of that state what is none of the
CORE's registers. -/
theorem resetDuringCommand : Obligations.ResetDuringCommand := by
  constructor
  · intro s r later i n t idle input hang pend decoded ran
    have notBetween : s.resetInput ≠ .betweenCommands := by simp [input]
    obtain ⟨v, cut, build, pending, trace⟩ := cutByReset_eq_resetCore (exec_keeps ran) n
    refine ⟨resetCore v, ?_, resetCore_atReset v, build, pending, rfl, trace,
      isResponse_eq_false_of_mem_take (s := s.setPending later) ran⟩
    rw [step_of_instr idle notBetween pend decoded ran, ← cut]
    exact settle_cut input hang
  · exact fun s input => ⟨resetCore s, step_of_reset_between input, rfl, rfl, rfl, rfl, rfl⟩

end Sys2Proof.Machine
end
